-- ==== Sys2Proof/Word.lean ====
section
/-! DEFINITION. The three word widths of the block (00_scope.md R10, 30_encoding.md R140). -/

namespace Sys2Proof

/-- A byte of the wire, of `DIN` or of `ACC`; also the 8-bit field A of a command word. -/
abbrev Byte := BitVec 8

/-- A 16-bit value: a CRC, a `TBL` entry, an event counter, the field B of a command word (R10). -/
abbrev Half := BitVec 16

/-- A 32-bit value: a command word, the time base, a down-counter, a result (R10, R140). -/
abbrev Word := BitVec 32

/-- The byte count or tick count held in a 32-bit register (R45: every wait is a 32-bit counter). -/
abbrev Word.ofTicks (d : Nat) : Word := BitVec.ofNat 32 d

end Sys2Proof
end

