-- ==== Sys2Proof/Config.lean ====
section
/-! DEFINITION. What is fixed for one instance of the block (the parameters of 00_scope.md R9), what the
environment may do next (agents and channel draws, 10_state.md R40 and R41, 20_memory.md R110 and R111), and the
free values: opaque constants without a body. -/

namespace Sys2Proof

/-- `STOP_MODE` (R9): the graceful end of a session. -/
inductive StopMode where
  | rampDown
  | immediate
  deriving DecidableEq, Repr, Inhabited

/-- `TABLE_IMPL` (R9): how the CRC table comes to exist. -/
inductive TableImpl where
  | rom
  | generator
  deriving DecidableEq, Repr, Inhabited

namespace Config

/-- `GET_VALUES_ID` (R9). -/
def getValuesId : Byte := 0x04

/-- `DUTY_WIRE_PER_PERCENT` (R9, 90_conflicts.md C2). -/
def dutyWirePerPercent : Int := 1000

/-- `DUTY_CLAMP` (R9). -/
def dutyClamp : Int := 100

/-- The one value of `STOP_MODE` in the instance that `State.reset` describes. R9 leaves it OPEN with no default, so
it is a FREE VALUE (log entry 2): no proof can see which of the two it is. -/
opaque openStopMode : StopMode

/-- The parameters of R9 that vary between block instances. Durations are counted in ticks. The values after `:=` are
R9's defaults (a suggestion there); the claims of this model hold for every parameter record, or for every `Valid` one. -/
structure Params where
  cmdSetDuty : Byte := 0x05
  cmdSetCurrent : Byte := 0x06
  maxDuty : Nat := 100
  stepDelay : Nat := 50
  stopMode : StopMode
  stopBurstN : Nat := 5
  stopBurstGap : Nat := 10
  stopSustainN : Nat := 10
  stopSustainGap : Nat := 30
  stopReconfirm : Bool := true
  cooldown : Nat := 1000
  pausePollerInSession : Bool := true
  pollInterval : Nat := 100
  respWait : Nat := 50
  backoff : Nat := 100
  readMax : Nat := 512
  rxClearThreshold : Nat := 1000
  rxCap : Nat := 2048
  dinDepth : Nat := 1024
  tableImpl : TableImpl := .generator
  stopOnReset : Bool := false
  /-- `TICK_PERIOD` in microseconds: informative only, no rule of the model reads it (R9, R43). -/
  tickPeriodUs : Nat := 1000
  deriving DecidableEq, Repr

/-- The parameters of the instance that `State.reset` describes: R9's defaults, and the free `STOP_MODE`. -/
def Params.default : Params := { stopMode := openStopMode }

/-- R9's column "allowed values". -/
def Params.valid (p : Params) : Bool :=
  p.cmdSetDuty ≠ p.cmdSetCurrent && p.cmdSetDuty ≠ getValuesId && p.cmdSetCurrent ≠ getValuesId
  && decide (p.maxDuty ≤ 100)
  && decide (p.stepDelay < 2 ^ 31)
  && decide (2 ≤ p.stopBurstN) && decide (p.stopBurstN ≤ 255) && decide (p.stopBurstGap < 2 ^ 31)
  && decide (2 ≤ p.stopSustainN) && decide (p.stopSustainN ≤ 255) && decide (p.stopSustainGap < 2 ^ 31)
  && decide (p.cooldown < 2 ^ 31)
  && decide (p.pollInterval < 2 ^ 31)
  && decide (1 ≤ p.respWait) && decide (p.respWait < 2 ^ 31)
  && decide (p.backoff < 2 ^ 31)
  && decide (1 ≤ p.readMax) && decide (p.readMax ≤ 65535)
  && decide (259 ≤ p.rxClearThreshold) && decide (p.rxClearThreshold ≤ 65535)
  && decide (p.rxClearThreshold + p.readMax ≤ p.rxCap)
  && decide (260 ≤ p.dinDepth) && decide (p.dinDepth ≤ 65535)
  && decide (0 < p.tickPeriodUs)

/-- A parameter record R9 allows. -/
abbrev Params.Valid (p : Params) : Prop := p.valid = true

/-- The content of a `TBL` entry the generator has not written yet (10_state.md R90: "unspecified until written"), a
FREE VALUE (log entry 3). The first argument tells one reset from the next, the second is the index. -/
opaque freeTblEntry : Nat → Nat → Half

end Config

/-- The outcome of a `ChanWrite` (20_memory.md R110). -/
inductive IoOutcome where
  | ok
  | err
  deriving DecidableEq, Repr, Inhabited

/-- What `CHAN` chooses for a `ChanWrite` (R110): all bytes taken, or a failure after the first `sent` bytes. The block
sees only ok or err. -/
inductive WriteDraw where
  | ok
  | err (sent : Nat)
  deriving DecidableEq, Repr, Inhabited

/-- What `CHAN` chooses for a `ChanRead` (R111): a failure, or how many of its pending input bytes it hands over. -/
inductive ReadDraw where
  | err
  | bytes (n : Nat)
  deriving DecidableEq, Repr, Inhabited

/-- The choices `CHAN` has ready for the channel primitive of one step (R110, R111). A step performs at most one. -/
structure ChanDraw where
  write : WriteDraw
  read : ReadDraw
  /-- How many of the accepted but untransmitted output bytes survive a flush (R111, R566: discarded or sent). -/
  flushKeep : Nat
  deriving DecidableEq, Repr, Inhabited

/-- One step of one agent of R40. Any enabled agent may take the next step (R41); a move whose step is not enabled
changes nothing. -/
inductive Move where
  /-- `CMD`: the command port tries the oldest word presented (R146). -/
  | cmd
  /-- `GEN`: one iteration of the table generator (R201). -/
  | gen
  /-- `POLL`: the poller's enabled step (R435, R436, R438). -/
  | poll
  /-- `SEQ`: the sequencer's enabled session step (R353 to R380). -/
  | seq
  /-- `SEQ`: the cooldown release (R392), which is independent of `SEQ_STATE`. -/
  | gateRelease
  /-- `CLK`: one tick (R44). -/
  | clk
  /-- The channel arbiter of R112 grants the channel: `SEQ` first, then `CMD`, then `POLL`. -/
  | arbiter
  /-- `HOST` presents a command word on the command port (R140, R146). -/
  | hostPresent (w : Word)
  /-- `HOST` pushes one byte into `DIN` (R56). -/
  | hostPush (b : Byte)
  /-- `HOST` pulses the `estop` pin (R380). -/
  | hostEstop
  /-- `HOST` asserts the reset input (R550). -/
  | hostReset
  /-- `CHAN`: bytes arrive from the motor controller and wait to be read (R83). -/
  | chanReceive (bs : List Byte)
  /-- `CHAN`: up to `n` accepted output bytes go out on the serial line (R83). -/
  | chanTransmit (n : Nat)
  deriving DecidableEq, Repr, Inhabited

/-- One entry of the schedule: who moves, and what `CHAN` has chosen should that step use the channel. -/
structure Turn where
  move : Move
  draw : ChanDraw
  deriving DecidableEq, Repr, Inhabited

/-- Who moves next when the schedule in State says nothing (R41: the order is free), a FREE VALUE for each number
(log entry 1). -/
opaque Config.freeTurn : Nat → Turn

end Sys2Proof
end

