-- ==== Sys2Proof/Syntax.lean ====
section
/-! DEFINITION. The host's commands, one constructor per row of spec/opcode_table.json (30_encoding.md R143), with the
operands R141 reads from the fields A and B. Fields a command does not use are not operands (R142). -/

namespace Sys2Proof

/-- A command of R143. -/
inductive Instr where
  /-- NOP (45_status.md R483). -/
  | nop
  /-- CRC_INIT (40_crc.md R211). -/
  | crcInit
  /-- CRC_UPDATE (R212): `b = u8(A)`. -/
  | crcUpdate (b : Byte)
  /-- CRC_READ (R213). -/
  | crcRead
  /-- TBL_READ (R214): `i = u8(A)`. -/
  | tblRead (i : Nat)
  /-- CRC_BLOCK (R215): `n = u16(B)` bytes from `DIN`. -/
  | crcBlock (n : Nat)
  /-- TX_FRAME (41_framer.md R260): `n = u16(B)` payload bytes from `DIN`. -/
  | txFrame (n : Nat)
  /-- SYNC_APPEND (R262): `n = u16(B)` bytes from `DIN`. -/
  | syncAppend (n : Nat)
  /-- SYNC_EXTRACT (R263). -/
  | syncExtract
  /-- SYNC_CLEAR (R264). -/
  | syncClear
  /-- DECODE_GV (42_telemetry.md R310): `n = u16(B)` payload bytes from `DIN`. -/
  | decodeGv (n : Nat)
  /-- SET_DUTY (43_duty_sequencer.md R345): `x = spct(B)`, a signed 16-bit percent. -/
  | setDuty (x : Int)
  /-- RAMP_AND_HOLD (R350): `t = pct(A)`, `h = u16(B)`. -/
  | rampAndHold (t : Int) (h : Nat)
  /-- TRIGGER (R390): `t = pct(A)`, `h = u16(B)`. -/
  | trigger (t : Int) (h : Nat)
  /-- HARD_STOP (R381). -/
  | hardStop
  /-- ESTOP (R380). -/
  | estop
  /-- POLL_START (44_poller.md R430). -/
  | pollStart
  /-- POLL_START_TEMP (R431): `d = u16(B)`. -/
  | pollStartTemp (d : Nat)
  /-- POLL_PAUSE (R432). -/
  | pollPause
  /-- POLL_RESUME (R433). -/
  | pollResume
  /-- POLL_STOP (R434). -/
  | pollStop
  /-- STAT_READ (45_status.md R480): `i = u8(A)`. -/
  | statRead (i : Nat)
  /-- STATUS_CLEAR (R482). -/
  | statusClear
  deriving DecidableEq, Repr

/-- What a command word selects (R145: decoding is total). -/
inductive Decoded where
  /-- A row of R143. -/
  | instr (i : Instr)
  /-- A reserved opcode (R144), by its `OP` field. -/
  | reserved (op : Byte)
  deriving DecidableEq, Repr

end Sys2Proof
end

