-- ==== Sys2Proof/WellFormed.lean ====
section
/-! DEFINITION. Which commands have an encoding: each operand lies in the range of the field R141 reads it from. -/

namespace Sys2Proof

/-- `u8` of R141: 0..255. -/
def fitsU8 (i : Nat) : Bool := decide (i < 2 ^ 8)

/-- `u16` of R141: 0..65535. -/
def fitsU16 (n : Nat) : Bool := decide (n < 2 ^ 16)

/-- `pct` of R141: −128..127. -/
def fitsPct (t : Int) : Bool := decide (-128 ≤ t) && decide (t ≤ 127)

/-- `spct` of R141: −32768..32767. -/
def fitsSpct (x : Int) : Bool := decide (-32768 ≤ x) && decide (x ≤ 32767)

/-- Every operand fits the field the opcode's row of R143 gives it. -/
def Instr.wf : Instr → Bool
  | .nop => true
  | .crcInit => true
  | .crcUpdate _ => true
  | .crcRead => true
  | .tblRead i => fitsU8 i
  | .crcBlock n => fitsU16 n
  | .txFrame n => fitsU16 n
  | .syncAppend n => fitsU16 n
  | .syncExtract => true
  | .syncClear => true
  | .decodeGv n => fitsU16 n
  | .setDuty x => fitsSpct x
  | .rampAndHold t h => fitsPct t && fitsU16 h
  | .trigger t h => fitsPct t && fitsU16 h
  | .hardStop => true
  | .estop => true
  | .pollStart => true
  | .pollStartTemp d => fitsU16 d
  | .pollPause => true
  | .pollResume => true
  | .pollStop => true
  | .statRead i => fitsU8 i
  | .statusClear => true

/-- A command some word encodes. -/
abbrev Instr.WellFormed (i : Instr) : Prop := i.wf = true

end Sys2Proof
end

