-- ==== Sys2Proof/Decode.lean ====
section
/-! DEFINITION. The decoder of command words (30_encoding.md R140 to R145) and the encoder that R160 describes
(unused fields assemble as 0). A word is 32 bits presented in parallel, so there is no byte order (R140). -/

namespace Sys2Proof

/-- `OP = word[31:24]` (R140). -/
def opField (w : Word) : Byte := w.extractLsb' 24 8

/-- `A = word[23:16]` (R140). -/
def aField (w : Word) : Byte := w.extractLsb' 16 8

/-- `B = word[15:0]` (R140). -/
def bField (w : Word) : Half := w.extractLsb' 0 16

/-- `u8(A)` (R141). -/
def u8Of (a : Byte) : Nat := a.toNat

/-- `u16(B)` (R141). -/
def u16Of (b : Half) : Nat := b.toNat

/-- `pct(A) = s_8(A)` (R141). -/
def pctOf (a : Byte) : Int := a.toInt

/-- `spct(B) = s_16(B)` (R141). -/
def spctOf (b : Half) : Int := b.toInt

/-- R143 and R144: `OP` alone selects the row; every other opcode is reserved, rejected by its number. -/
def decode (w : Word) : Decoded :=
  let a := aField w
  let b := bField w
  match (opField w).toNat with
  | 0x00 => .instr .nop
  | 0x01 => .instr .crcInit
  | 0x02 => .instr (.crcUpdate a)
  | 0x03 => .instr .crcRead
  | 0x04 => .instr (.tblRead (u8Of a))
  | 0x05 => .instr (.crcBlock (u16Of b))
  | 0x10 => .instr (.txFrame (u16Of b))
  | 0x20 => .instr (.syncAppend (u16Of b))
  | 0x21 => .instr .syncExtract
  | 0x22 => .instr .syncClear
  | 0x28 => .instr (.decodeGv (u16Of b))
  | 0x30 => .instr (.setDuty (spctOf b))
  | 0x31 => .instr (.rampAndHold (pctOf a) (u16Of b))
  | 0x32 => .instr (.trigger (pctOf a) (u16Of b))
  | 0x33 => .instr .hardStop
  | 0x34 => .instr .estop
  | 0x40 => .instr .pollStart
  | 0x41 => .instr (.pollStartTemp (u16Of b))
  | 0x42 => .instr .pollPause
  | 0x43 => .instr .pollResume
  | 0x44 => .instr .pollStop
  | 0x50 => .instr (.statRead (u8Of a))
  | 0x51 => .instr .statusClear
  | _ => .reserved (opField w)

/-- `OP ++ A ++ B` (R140). -/
def cmdWordOf (op a : Byte) (b : Half) : Word := (op ++ a) ++ b

/-- The `OP` value of each row of R143. -/
def Instr.opcode : Instr → Byte
  | .nop => 0x00
  | .crcInit => 0x01
  | .crcUpdate _ => 0x02
  | .crcRead => 0x03
  | .tblRead _ => 0x04
  | .crcBlock _ => 0x05
  | .txFrame _ => 0x10
  | .syncAppend _ => 0x20
  | .syncExtract => 0x21
  | .syncClear => 0x22
  | .decodeGv _ => 0x28
  | .setDuty _ => 0x30
  | .rampAndHold _ _ => 0x31
  | .trigger _ _ => 0x32
  | .hardStop => 0x33
  | .estop => 0x34
  | .pollStart => 0x40
  | .pollStartTemp _ => 0x41
  | .pollPause => 0x42
  | .pollResume => 0x43
  | .pollStop => 0x44
  | .statRead _ => 0x50
  | .statusClear => 0x51

/-- The field A of each row of R143; 0 where the row has none (R160). -/
def Instr.aOperand : Instr → Byte
  | .crcUpdate b => b
  | .tblRead i => BitVec.ofNat 8 i
  | .statRead i => BitVec.ofNat 8 i
  | .rampAndHold t _ => BitVec.ofInt 8 t
  | .trigger t _ => BitVec.ofInt 8 t
  | .nop | .crcInit | .crcRead | .crcBlock _ | .txFrame _ | .syncAppend _ | .syncExtract | .syncClear
  | .decodeGv _ | .setDuty _ | .hardStop | .estop | .pollStart | .pollStartTemp _ | .pollPause | .pollResume
  | .pollStop | .statusClear => 0

/-- The field B of each row of R143; 0 where the row has none (R160). -/
def Instr.bOperand : Instr → Half
  | .crcBlock n => BitVec.ofNat 16 n
  | .txFrame n => BitVec.ofNat 16 n
  | .syncAppend n => BitVec.ofNat 16 n
  | .decodeGv n => BitVec.ofNat 16 n
  | .setDuty x => BitVec.ofInt 16 x
  | .rampAndHold _ h => BitVec.ofNat 16 h
  | .trigger _ h => BitVec.ofNat 16 h
  | .pollStartTemp d => BitVec.ofNat 16 d
  | .nop | .crcInit | .crcUpdate _ | .crcRead | .tblRead _ | .syncExtract | .syncClear | .hardStop | .estop
  | .pollStart | .pollPause | .pollResume | .pollStop | .statRead _ | .statusClear => 0

/-- The word of a command (R140, R143, R160). -/
def encode (i : Instr) : Word := cmdWordOf i.opcode i.aOperand i.bOperand

/-- The word of an opcode-table row: bit 0 of the table is bit 0 of the command word (R140: one 32-bit word). -/
def tableWord (nbits w : Nat) : Word := BitVec.ofNat 32 (w % 2 ^ nbits)

/-- What the decoder reads from a word numbered as spec/opcode_table.json numbers it. -/
def decodeTableWord (nbits w : Nat) : Option Instr :=
  match decode (tableWord nbits w) with
  | .instr i => some i
  | .reserved _ => none

end Sys2Proof
end

