-- ==== Sys2Proof/Machine/Operands.lean ====
section
/-! DEFINITION. The notation of 00_scope.md R11 and R12 on byte sequences and numbers: indexing, slices, big-endian
integers, clamp and sign. -/

namespace Sys2Proof.Machine

/-- `s[i]` (R11). Every use is guarded by a length test, so the default is never read. -/
def byteAt (s : List Byte) (i : Nat) : Byte := s.getD i 0

/-- `s[i:j]` (R11): bytes i to j−1. -/
def slice (s : List Byte) (i j : Nat) : List Byte := (s.take j).drop i

/-- `be16(s, i)` (R12). -/
def be16 (s : List Byte) (i : Nat) : Half := byteAt s i ++ byteAt s (i + 1)

/-- `be32(s, i)` (R12). -/
def be32 (s : List Byte) (i : Nat) : Word := be16 s i ++ be16 s (i + 2)

/-- `v[15:8]` of a 16-bit value (R11). -/
def hiByte (v : Half) : Byte := v.extractLsb' 8 8

/-- `v[7:0]` of a 16-bit value (R11). -/
def loByte (v : Half) : Byte := v.extractLsb' 0 8

/-- `bytes_be_16(v)` (R12). -/
def bytesBe16 (v : Half) : List Byte := [hiByte v, loByte v]

/-- `bytes_be_32(v)` (R12). -/
def bytesBe32 (v : Word) : List Byte :=
  [v.extractLsb' 24 8, v.extractLsb' 16 8, v.extractLsb' 8 8, v.extractLsb' 0 8]

/-- `clamp(v, lo, hi) = min(max(v, lo), hi)` (R12). -/
def clamp (v lo hi : Int) : Int := min (max v lo) hi

/-- `elapsed(W)` holds exactly when `W = 0` (10_state.md R45). -/
def elapsed (w : Word) : Bool := w == 0

/-- One tick of a down-counter: it stops at 0 (R44, R45). -/
def tickDown (w : Word) : Word := if w = 0 then 0 else w - 1

/-- A 16-bit register or record value read as a 32-bit result, zero-extended (20_memory.md R105). -/
def zext32 (v : Half) : Word := v.setWidth 32

end Sys2Proof.Machine
end

