-- ==== Sys2Proof/Machine/CrcTable.lean ====
section
/-! DEFINITION. The CRC table and the CRC function, as pure functions of a table (40_crc.md R200 to R204). -/

namespace Sys2Proof.Machine

/-- The next `crc` of one iteration of R200's loop: `crc` shifts left, and `0x1021` is XORed in when the top bit of
`crc ^ c` is set. -/
def tableIterCrc (crc c : Half) : Half :=
  if (crc ^^^ c) &&& 0x8000 = 0 then crc <<< 1 else (crc <<< 1) ^^^ 0x1021

/-- `n` iterations of R200's loop from `crc` and `c`; the answer is both registers. -/
def tableIters : Nat → Half → Half → Half × Half
  | 0, crc, c => (crc, c)
  | n + 1, crc, c => tableIters n (tableIterCrc crc c) (c <<< 1)

/-- `c <- (i << 8) & 0xFFFF`, the start value of entry i (R200). -/
def entryStart (i : Nat) : Half := BitVec.ofNat 16 i <<< 8

/-- `table_entry(i)` (R200). -/
def tableEntry (i : Nat) : Half := (tableIters 8 0 (entryStart i)).1

/-- The final content of `TBL` (R200, R202). -/
def romTable : List Half := (List.range 256).map tableEntry

/-- The content of `TBL` right after the reset number `k` (10_state.md R90): the final values in a ROM, unspecified in a
generated table (log entry 3). -/
def resetTable : TableImpl → Nat → List Half
  | .rom, _ => romTable
  | .generator, k => (List.range 256).map (Config.freeTblEntry k)

/-- `TBL[i]`. `TBL` holds 256 entries, so an 8-bit index always finds one. -/
def tblAt (tbl : List Half) (i : Nat) : Half := tbl.getD i (Config.freeTblEntry 0 i)

/-- `crc_step(crc, b) = ((crc << 8) & 0xFFFF) ^ TBL[((crc >> 8) ^ b) & 0xFF]` (R203). -/
def crcStep (tbl : List Half) (crc : Half) (b : Byte) : Half :=
  (crc <<< 8) ^^^ tblAt tbl ((hiByte crc ^^^ b).toNat)

/-- The running CRC of R203 from any start value, over the bytes of `data` first to last. -/
def crcRun (tbl : List Half) (crc : Half) (data : List Byte) : Half := data.foldl (crcStep tbl) crc

/-- `crc16(data)`, from 0 (R203). -/
def crc16 (tbl : List Half) (data : List Byte) : Half := crcRun tbl 0 data

end Sys2Proof.Machine
end

