-- ==== Sys2Proof/Machine/State.lean ====
section
/-! DEFINITION. The state of the block (10_state.md), of the channel behind it as far as R83 names it, and the model's
schedule; the value of every element right after reset (R90, 70_reset_and_hazards.md R550); the reasons a step can stop. -/

namespace Sys2Proof.Machine

/-- `SEQ_STATE` (R60). -/
inductive SeqState where
  | idle
  | rampingUp
  | holding
  | rampingDown
  | stopping
  deriving DecidableEq, Repr

/-- `CTRL_MODE` (R62): the type of the last control frame attempted. -/
inductive CtrlMode where
  | duty
  | current
  deriving DecidableEq, Repr

/-- `STOP_PHASE` (R66). -/
inductive StopPhase where
  | burst
  | current
  | sustain
  | flush
  | reconfirm
  deriving DecidableEq, Repr

/-- `SESSION_KIND` (R70). -/
inductive SessionKind where
  | none
  | ramp
  | gated
  | hard
  | emergency
  | reset
  deriving DecidableEq, Repr

/-- `GATE` (R71). -/
inductive GateState where
  | idle
  | busy
  | cooldown
  deriving DecidableEq, Repr

/-- `POLL_STATE` (R75). -/
inductive PollState where
  | stopped
  | running
  | paused
  deriving DecidableEq, Repr

/-- `POLL_PHASE` (R76). -/
inductive PollPhase where
  | tick
  | resp
  deriving DecidableEq, Repr

/-- The agents an event names (R40, 60_exceptions.md R500). -/
inductive Agent where
  | cmd
  | seq
  | poll
  deriving DecidableEq, Repr

/-- Why a payload decodes to null (42_telemetry.md R300). -/
inductive NullReason where
  | short
  | unpack
  deriving DecidableEq, Repr

/-- The 15 raw signed fields of a telemetry sample (42_telemetry.md R303, R304). -/
structure Telemetry where
  tempFet : Int
  tempMotor : Int
  currentMotor : Int
  currentIn : Int
  id : Int
  iq : Int
  duty : Int
  rpm : Int
  vIn : Int
  ampHours : Int
  ampHoursCharged : Int
  wattHours : Int
  wattHoursCharged : Int
  tachometer : Int
  tachometerAbs : Int
  deriving DecidableEq, Repr

/-- The answer of `decode_gv` (R300): a sample, or a null with the whole unstripped payload (R307). -/
inductive GvResult where
  | sample (f : Telemetry)
  | null (p : List Byte) (reason : NullReason)
  deriving DecidableEq, Repr

/-- The error events of 60_exceptions.md R500 with the info each carries. -/
inductive Event where
  | illegalCmd (word : Word)
  | ownErr (word : Word)
  | crcErr (offset : Nat)
  | termErr (offset : Nat)
  | decodeNull (p : List Byte) (reason : NullReason)
  | ioErrWrite (agent : Agent)
  | ioErrRead (agent : Agent)
  | triggerReject (word : Word)
  | rxOvf (dropped : Nat)
  | rxClr (cleared : Nat)
  | sessionAbort (at_ : SeqState)
  deriving DecidableEq, Repr

/-- What a `ChanRead` answers (20_memory.md R111). -/
inductive ReadResult where
  | err
  | bytes (b : List Byte)
  deriving DecidableEq, Repr

/-- A record of the stream `OUT` (45_status.md R485). -/
inductive OutRecord where
  | result (v : Word)
  | payload (p : List Byte)
  | decoded (f : Telemetry)
  | decodeNull (p : List Byte) (reason : NullReason)
  | event (e : Event)
  deriving DecidableEq, Repr

/-- A record of the stream `LOG` (44_poller.md R434, R440). -/
inductive LogRecord where
  | sample (t : Word) (f : Telemetry)
  | logClose (t : Word)
  deriving DecidableEq, Repr

/-- A record of the stream `WIRE`: one per channel operation (R82, R110, R111). -/
inductive WireRecord where
  | write (f : List Byte) (o : IoOutcome)
  | read (r : ReadResult)
  | flush
  deriving DecidableEq, Repr

/-- What `extract` returns (41_framer.md R250): payloads found, frame-error events found, remainder. -/
structure ExtractResult where
  out : List (List Byte)
  ev : List Event
  rem : List Byte
  deriving DecidableEq, Repr

/-- The CRC unit (R50 to R53). `tbl` has 256 entries. -/
structure CrcUnit where
  tbl : List Half
  tblReady : Bool
  genI : BitVec 9
  genJ : BitVec 4
  genCrc : Half
  genC : Half
  crcAcc : Half
  deriving DecidableEq, Repr

/-- The sequencer's registers (R60 to R70). -/
structure Sequencer where
  state : SeqState
  duty : BitVec 8
  ctrlMode : CtrlMode
  target : BitVec 8
  hold : Half
  rampK : BitVec 7
  stopPhase : StopPhase
  stopCnt : BitVec 8
  wait : Word
  cancel : Bool
  sessionGated : Bool
  autoPaused : Bool
  sessionKind : SessionKind
  deriving DecidableEq, Repr

/-- The session gate (R71, R72). -/
structure Gate where
  state : GateState
  wait : Word
  deriving DecidableEq, Repr

/-- The poller's registers (R75 to R78). -/
structure Poller where
  state : PollState
  phase : PollPhase
  wait : Word
  t0 : Word
  tempActive : Bool
  tempLeft : Word
  deriving DecidableEq, Repr

/-- The ten event counters (R81). -/
structure Counters where
  crcErr : Half
  termErr : Half
  frame : Half
  txFrame : Half
  sample : Half
  decodeNull : Half
  ioErr : Half
  reject : Half
  rxClr : Half
  rxOvf : Half
  deriving DecidableEq, Repr

/-- The state of `CHAN`, outside the block (R83): bytes arrived and not yet read, bytes accepted and not yet
transmitted, bytes transmitted on the serial line so far. -/
structure Channel where
  rx : List Byte
  tx : List Byte
  line : List Byte
  deriving DecidableEq, Repr

/-- The state of the machine: the block's own state elements (R90), the command words `HOST` has presented, the channel,
and the model's schedule, which says which agent moves next (log entry 1). -/
structure State where
  /-- The parameters of R9, fixed for the block instance: no step changes them (log entry 2). -/
  params : Config.Params
  /-- `CMD_IDX` (R42): commands retired since reset. -/
  cmdIdx : Nat
  /-- The command words presented and not retired, oldest first (R146); the word at `CMD_IDX` is the first. -/
  cmdPort : List Word
  /-- The payload a TX_FRAME has taken from `DIN` while it holds on the session lock (R260, R15). -/
  cmdData : Option (List Byte)
  /-- `NOW` (R44). -/
  now : Word
  crc : CrcUnit
  /-- `ACC` (R55). -/
  acc : List Byte
  /-- `DIN` (R56). -/
  din : List Byte
  seq : Sequencer
  gate : Gate
  poll : Poller
  /-- `STICKY` (R80): bit code − 1 belongs to the event with that code. -/
  sticky : BitVec 11
  counters : Counters
  /-- `OUT`, `LOG` and `WIRE` (R82), oldest record first. -/
  out : List OutRecord
  log : List LogRecord
  wire : List WireRecord
  chan : Channel
  /-- What `CHAN` has chosen for the channel primitive of the step being taken. -/
  draw : ChanDraw
  /-- Who moves next, and then (R41). -/
  schedule : List Turn
  /-- How many free values have been drawn (the schedule's and a reset's); the model's own counter. -/
  turns : Nat
  deriving DecidableEq, Repr

/-- Reset values of the CRC unit (R50 to R53, R90); `k` numbers the reset (log entry 3). -/
def CrcUnit.resetWith (p : Config.Params) (k : Nat) : CrcUnit where
  tbl := resetTable p.tableImpl k
  tblReady := p.tableImpl = .rom
  genI := 0
  genJ := 0
  genCrc := 0
  genC := 0
  crcAcc := 0

/-- Reset values of the sequencer (R60 to R70, R90; 43_duty_sequencer.md R382 for `STOP_ON_RESET = 1`). -/
def Sequencer.resetWith (p : Config.Params) : Sequencer where
  state := if p.stopOnReset then .stopping else .idle
  duty := 0
  ctrlMode := .duty
  target := 0
  hold := 0
  rampK := 0
  stopPhase := .burst
  stopCnt := 0
  wait := 0
  cancel := false
  sessionGated := false
  autoPaused := false
  sessionKind := if p.stopOnReset then .reset else .none

/-- Reset values of the gate (R71, R72). -/
def Gate.reset : Gate where
  state := .idle
  wait := 0

/-- Reset values of the poller (R75 to R78). -/
def Poller.reset : Poller where
  state := .stopped
  phase := .tick
  wait := 0
  t0 := 0
  tempActive := false
  tempLeft := 0

/-- Reset values of the counters (R81). -/
def Counters.reset : Counters where
  crcErr := 0
  termErr := 0
  frame := 0
  txFrame := 0
  sample := 0
  decodeNull := 0
  ioErr := 0
  reject := 0
  rxClr := 0
  rxOvf := 0

/-- The block of parameters `p` after a reset, beside a channel, a schedule and a number of free values drawn, which a
reset leaves alone (R550). -/
def State.resetWith (p : Config.Params) (ch : Channel) (d : ChanDraw) (sched : List Turn) (k : Nat) : State where
  params := p
  cmdIdx := 0
  cmdPort := []
  cmdData := none
  now := 0
  crc := CrcUnit.resetWith p k
  acc := []
  din := []
  seq := Sequencer.resetWith p
  gate := Gate.reset
  poll := Poller.reset
  sticky := 0
  counters := Counters.reset
  out := []
  log := []
  wire := []
  chan := ch
  draw := d
  schedule := sched
  turns := k

/-- A channel with nothing in flight: what `State.reset` shows beside the block (DESIGN CHOICE, log entry 4: R550 says
only that a reset leaves the channel as it was). -/
def Channel.quiet : Channel where
  rx := []
  tx := []
  line := []

/-- The machine right after reset (R90): the instance with R9's default parameters, nothing presented, nothing scheduled.
The draw is the model's own field (DESIGN CHOICE, log entry 4); no statement rests on it. -/
def State.reset : State :=
  State.resetWith Config.Params.default Channel.quiet { write := .ok, read := .bytes 0, flushKeep := 0 } [] 0

/-- No step of the block faults (60_exceptions.md R501, R502: "None stops the block: the block never halts"), so there is
no fault reason. -/
inductive Fault : Type
  deriving DecidableEq, Repr

/-- Why a step has no meaning. -/
inductive Refusal where
  /-- Raised by an arm of `exec` whose instruction has no meaning yet; none is left. Safe: the machine stops. -/
  | notModelled (mnemonic : String)
  deriving DecidableEq, Repr

end Sys2Proof.Machine
end

