-- ==== Sys2Proof/Machine/Flags.lean ====
section
/-! DEFINITION. The status surface: the code of every state value (10_state.md), the codes of the events
(60_exceptions.md R500), the counters they increment (R81), and the status word (45_status.md R481). -/

namespace Sys2Proof.Machine

/-- A 1-bit register as a bit. -/
def bit (b : Bool) : BitVec 1 := BitVec.ofBool b

/-- R60. -/
def SeqState.code : SeqState → BitVec 3
  | .idle => 0
  | .rampingUp => 1
  | .holding => 2
  | .rampingDown => 3
  | .stopping => 4

/-- R62. -/
def CtrlMode.code : CtrlMode → BitVec 1
  | .duty => 0
  | .current => 1

/-- R66. `STATUS` has no field for it (R481), so no step reads it. -/
def StopPhase.code : StopPhase → BitVec 3
  | .burst => 0
  | .current => 1
  | .sustain => 2
  | .flush => 3
  | .reconfirm => 4

/-- R70. -/
def SessionKind.code : SessionKind → BitVec 3
  | .none => 0
  | .ramp => 1
  | .gated => 2
  | .hard => 3
  | .emergency => 4
  | .reset => 5

/-- R71. -/
def GateState.code : GateState → BitVec 2
  | .idle => 0
  | .busy => 1
  | .cooldown => 2

/-- R75. -/
def PollState.code : PollState → BitVec 2
  | .stopped => 0
  | .running => 1
  | .paused => 2

/-- R76. -/
def PollPhase.code : PollPhase → BitVec 1
  | .tick => 0
  | .resp => 1

/-- The code of each event (R500). -/
def Event.code : Event → Nat
  | .illegalCmd _ => 1
  | .ownErr _ => 2
  | .crcErr _ => 3
  | .termErr _ => 4
  | .decodeNull _ _ => 5
  | .ioErrWrite _ => 6
  | .ioErrRead _ => 7
  | .triggerReject _ => 8
  | .rxOvf _ => 9
  | .rxClr _ => 10
  | .sessionAbort _ => 11

/-- The sticky bit of an event: bit code − 1 (R80, R500). -/
def Event.stickyBit (e : Event) : BitVec 11 := 1#11 <<< (e.code - 1)

/-- R500: the counter of the event goes up by one, modulo 2^16, where the event has one. -/
def Counters.bump (c : Counters) : Event → Counters
  | .illegalCmd _ => c
  | .ownErr _ => c
  | .crcErr _ => { c with crcErr := c.crcErr + 1 }
  | .termErr _ => { c with termErr := c.termErr + 1 }
  | .decodeNull _ _ => { c with decodeNull := c.decodeNull + 1 }
  | .ioErrWrite _ => { c with ioErr := c.ioErr + 1 }
  | .ioErrRead _ => { c with ioErr := c.ioErr + 1 }
  | .triggerReject _ => { c with reject := c.reject + 1 }
  | .rxOvf _ => { c with rxOvf := c.rxOvf + 1 }
  | .rxClr _ => { c with rxClr := c.rxClr + 1 }
  | .sessionAbort _ => c

/-- Bits [31:16] of `STATUS` (R481): four zeros, `SESSION_GATED`, the sticky bits. -/
def State.statusHigh (s : State) : Half := (0#4 ++ bit s.seq.sessionGated) ++ s.sticky

/-- Bits [15:8] of `STATUS` (R481). -/
def State.statusMid (s : State) : Byte :=
  ((((s.seq.sessionKind.code ++ s.poll.phase.code) ++ bit s.poll.tempActive) ++ bit s.seq.autoPaused)
    ++ s.seq.ctrlMode.code) ++ bit s.seq.cancel

/-- Bits [7:0] of `STATUS` (R481). -/
def State.statusLow (s : State) : Byte :=
  ((bit s.crc.tblReady ++ s.gate.state.code) ++ s.poll.state.code) ++ s.seq.state.code

/-- The status word (R481). -/
def State.status (s : State) : Word := s.statusHigh ++ (s.statusMid ++ s.statusLow)

/-- `STATVAL(i)` for i in 0..17 (R480); no value above. R480 gives the source of index 12 at most 16 bits, and R9 puts no
upper bound on `RX_CAP`: an `ACC` longer than 65535 bytes reads as its whole length (DESIGN CHOICE, log entry 22). -/
def State.statVal (s : State) : Nat → Option Word
  | 0 => some s.status
  | 1 => some (zext32 s.counters.crcErr)
  | 2 => some (zext32 s.counters.termErr)
  | 3 => some (zext32 s.counters.frame)
  | 4 => some (zext32 s.counters.txFrame)
  | 5 => some (zext32 s.counters.sample)
  | 6 => some (zext32 s.counters.decodeNull)
  | 7 => some (zext32 s.counters.ioErr)
  | 8 => some (zext32 s.counters.reject)
  | 9 => some (zext32 s.counters.rxClr)
  | 10 => some (zext32 s.counters.rxOvf)
  | 11 => some s.now
  | 12 => some (BitVec.ofNat 32 s.acc.length)
  | 13 => some (zext32 s.crc.crcAcc)
  | 14 => some (BitVec.ofNat 32 s.din.length)
  | 15 => some (s.seq.duty.signExtend 32)
  | 16 => some (s.seq.target.signExtend 32)
  | 17 => some (BitVec.ofNat 32 s.cmdIdx)
  | _ => none

end Sys2Proof.Machine
end

