-- ==== Sys2Proof/Machine/Ops.lean ====
section
/-! DEFINITION. The shared operations: recording an event (this block's counterpart of taking an exception,
60_exceptions.md R500 and R501), emitting records, retiring, the holds of 30_encoding.md R146 to R148, the frame
encoder and the synchronizer (41_framer.md R240, R250, R261), and the channel primitives (20_memory.md R110, R111). -/

namespace Sys2Proof.Machine

/-! ### Events and streams -/

/-- `raise E(info)` (R14, R500): sets E's sticky bit, increments E's counter where it has one and emits the event on
`OUT`. It never transfers control (R501). -/
def State.raise (e : Event) (s : State) : State :=
  { s with
    sticky := s.sticky ||| e.stickyBit
    counters := s.counters.bump e
    out := s.out ++ [.event e] }

/-- `raise` of each event of a list, in order (R504). -/
def State.raiseAll (es : List Event) (s : State) : State := es.foldl (fun st e => st.raise e) s

/-- `Emit(OUT, r)` (R14). -/
def State.emitOut (r : OutRecord) (s : State) : State := { s with out := s.out ++ [r] }

/-- `Emit(LOG, r)` (R14). -/
def State.emitLog (r : LogRecord) (s : State) : State := { s with log := s.log ++ [r] }

/-- `Emit(WIRE, r)` (R14). -/
def State.emitWire (r : WireRecord) (s : State) : State := { s with wire := s.wire ++ [r] }

/-! ### The command port -/

/-- The word the command port is executing: the one at `CMD_IDX` (R146). -/
def State.cmdWord (s : State) : Word := s.cmdPort.headD 0

/-- The command retires: `CMD_IDX` advances by one and the port takes the next word (R42, R146). -/
def State.retire (s : State) : State :=
  { s with cmdIdx := s.cmdIdx + 1, cmdPort := s.cmdPort.tail, cmdData := none }

/-- R148, R210: `hold until TBL_READY = 1`. A hold takes no step: the state stays as it is. -/
def State.whenTable (s : State) (act : State → State) : State := if s.crc.tblReady then act s else s

/-- The condition of R342: the session lock is free and no emergency stop is pending. -/
def State.lockFree (s : State) : Bool := s.seq.state == .idle && !s.seq.cancel

/-- R342: hold until `SEQ_STATE = IDLE` and `CANCEL = 0`, and act in the step that finds it so. -/
def State.whenLockFree (s : State) (act : State → State) : State := if s.lockFree then act s else s

/-- `DinTake(n)` leaves `DIN` without its first n bytes (R14). -/
def State.dinDrop (n : Nat) (s : State) : State := { s with din := s.din.drop n }

/-- R147: a length above `DIN_DEPTH` raises `ILLEGAL_CMD` and retires with no byte taken; a `DIN` that is too short holds;
otherwise the first n bytes are taken, in FIFO order, and `act` goes on with them. -/
def State.withDin (s : State) (n : Nat) (act : List Byte → State → State) : State :=
  if s.params.dinDepth < n then (s.raise (.illegalCmd s.cmdWord)).retire
  else if s.din.length < n then s
  else act (s.din.take n) (s.dinDrop n)

/-! ### The frame encoder -/

/-- The header of a frame: start byte and length (R240; R150 for L ≤ 255, R151 above). -/
def frameHeader (len : Nat) : List Byte :=
  if len ≤ 255 then [0x02, BitVec.ofNat 8 len] else 0x03 :: bytesBe16 (BitVec.ofNat 16 len)

/-- `encode(p)` (R240), over the table `tbl`. -/
def encodeFrame (tbl : List Half) (p : List Byte) : List Byte :=
  frameHeader p.length ++ p ++ bytesBe16 (crc16 tbl p) ++ [0x03]

/-- The payload of a SetDutyCycle frame for duty `d` in whole percent (R155). -/
def dutyPayload (p : Config.Params) (d : Int) : List Byte :=
  p.cmdSetDuty :: bytesBe32 (BitVec.ofInt 32 (d * Config.dutyWirePerPercent))

/-- The payload of the SetCurrent(0) frame (R156). -/
def currentZeroPayload (p : Config.Params) : List Byte := p.cmdSetCurrent :: bytesBe32 0

/-- The payload of the GET_VALUES request (R157). -/
def requestPayload : List Byte := [Config.getValuesId]

/-! ### The frame synchronizer -/

/-- The loop of `extract(buf)` (R250), from position `i` with the last consumed boundary `last`; `fuel` bounds the passes
left, and each pass moves `i` by at least one (R271). -/
def extractLoop (tbl : List Half) (buf : List Byte) :
    Nat → Nat → Nat → List (List Byte) → List Event → ExtractResult
  | 0, _, last, out, ev => ⟨out, ev, buf.drop last⟩
  | fuel + 1, i, last, out, ev =>
    if buf.length ≤ i then ⟨out, ev, buf.drop last⟩
    else if byteAt buf i ≠ 0x02 then extractLoop tbl buf fuel (i + 1) last out ev
    else if buf.length < i + 2 then ⟨out, ev, buf.drop i⟩
    else
      let len := (byteAt buf (i + 1)).toNat
      let fl := 2 + len + 2 + 1
      let p := slice buf (i + 2) (i + 2 + len)
      if buf.length < i + fl then ⟨out, ev, buf.drop i⟩
      else if byteAt buf (i + fl - 1) ≠ 0x03 then extractLoop tbl buf fuel (i + 1) last out (ev ++ [.termErr i])
      else if crc16 tbl p = be16 buf (i + 2 + len) then extractLoop tbl buf fuel (i + fl) (i + fl) (out ++ [p]) ev
      else extractLoop tbl buf fuel (i + 1) last out (ev ++ [.crcErr i])

/-- `extract(buf)` (R250). -/
def extract (tbl : List Half) (buf : List Byte) : ExtractResult := extractLoop tbl buf buf.length 0 0 [] []

/-- `acc_push(b)` (R261). -/
def State.accPush (b : List Byte) (s : State) : State :=
  let room := s.params.rxCap - s.acc.length
  if b.length ≤ room then { s with acc := s.acc ++ b }
  else State.raise (.rxOvf (b.length - room)) { s with acc := s.acc ++ b.take room }

/-- The payload list `acc_scan()` returns (R261). -/
def State.scanOut (s : State) : List (List Byte) := (extract s.crc.tbl s.acc).out

/-- The threshold clear at the end of `acc_scan()` (R261). -/
def State.accTrim (s : State) : State :=
  if s.params.rxClearThreshold < s.acc.length then
    { s.raise (.rxClr s.acc.length) with acc := [] }
  else s

/-- `FRAME_COUNT <- FRAME_COUNT + n` (R261). -/
def State.countFrames (n : Nat) (s : State) : State :=
  { s with counters := { s.counters with frame := s.counters.frame + BitVec.ofNat 16 n } }

/-- The effect of `acc_scan()` (R261): frame-error events in offset order, the frames counted, the remainder kept, and the
threshold clear. Its callers have passed the table hold. -/
def State.accScan (s : State) : State :=
  let r := extract s.crc.tbl s.acc
  State.accTrim { (s.raiseAll r.ev).countFrames r.out.length with acc := r.rem }

/-! ### The channel -/

/-- What the block is told of a drawn write (R110). -/
def outcomeOf : WriteDraw → IoOutcome
  | .ok => .ok
  | .err _ => .err

/-- The bytes of `f` handed to the channel: all of them, or some prefix when the write fails (R110). -/
def sentOf (f : List Byte) : WriteDraw → List Byte
  | .ok => f
  | .err n => f.take n

/-- The outcome the next `ChanWrite` returns. -/
def State.writeOutcome (s : State) : IoOutcome := outcomeOf s.draw.write

/-- `ChanWrite(f)` (R110). -/
def State.chanWrite (f : List Byte) (s : State) : State :=
  State.emitWire (.write f s.writeOutcome)
    { s with chan := { s.chan with tx := s.chan.tx ++ sentOf f s.draw.write } }

/-- The bytes a `ChanRead` hands over: at most `READ_MAX` of the pending input (R111). -/
def State.readBytes (n : Nat) (s : State) : List Byte := s.chan.rx.take (min n s.params.readMax)

/-- The result the next `ChanRead` returns (R111). -/
def State.readResult (s : State) : ReadResult :=
  match s.draw.read with
  | .err => .err
  | .bytes n => .bytes (s.readBytes n)

/-- `ChanRead()` (R111): bytes handed over are no longer pending. A read that fails leaves the pending input as it is; the
spec does not say whether it is lost (DESIGN CHOICE, log entry 21). -/
def State.chanRead (s : State) : State :=
  State.emitWire (.read s.readResult)
    (match s.draw.read with
     | .err => s
     | .bytes n => { s with chan := { s.chan with rx := s.chan.rx.drop (min n s.params.readMax) } })

/-- `ChanFlush()` (R111): pending input is discarded; pending output is discarded or kept as drawn. -/
def State.chanFlush (s : State) : State :=
  State.emitWire .flush { s with chan := { s.chan with rx := [], tx := s.chan.tx.take s.draw.flushKeep } }

/-- A `ChanWrite` and the count of R265: `TX_FRAME_COUNT` goes up by one when the write returns ok. -/
def State.sendFrame (f : List Byte) (s : State) : State :=
  let t := s.chanWrite f
  match s.writeOutcome with
  | .ok => { t with counters := { t.counters with txFrame := t.counters.txFrame + 1 } }
  | .err => t

/-- `if o = err then raise IO_ERR_WRITE(a)`, after a write whose outcome was `o` (R500). -/
def State.reportWrite (o : IoOutcome) (a : Agent) (s : State) : State :=
  match o with
  | .ok => s
  | .err => s.raise (.ioErrWrite a)

/-- The frame of `send_duty(d)` (R343). -/
def State.dutyFrame (s : State) (d : Int) : List Byte := encodeFrame s.crc.tbl (dutyPayload s.params d)

/-- The frame of `send_current_zero()` (R344). -/
def State.currentZeroFrame (s : State) : List Byte := encodeFrame s.crc.tbl (currentZeroPayload s.params)

/-- `REQ` (44_poller.md R421). -/
def State.requestFrame (s : State) : List Byte := encodeFrame s.crc.tbl requestPayload

/-- `send_duty(d)` (R343): `DUTY` and `CTRL_MODE` are written at the attempt, whatever the outcome. -/
def State.sendDuty (d : Int) (s : State) : State :=
  State.sendFrame (s.dutyFrame d) { s with seq := { s.seq with duty := BitVec.ofInt 8 d, ctrlMode := .duty } }

/-- `send_current_zero()` (R344): `DUTY` is not changed. -/
def State.sendCurrentZero (s : State) : State :=
  State.sendFrame s.currentZeroFrame { s with seq := { s.seq with ctrlMode := .current } }

end Sys2Proof.Machine
end

