-- ==== Sys2Proof/Machine/Crc.lean ====
section
/-! DEFINITION. The CRC unit: the table generator (40_crc.md R201) and the commands CRC_INIT, CRC_UPDATE, CRC_READ,
TBL_READ and CRC_BLOCK (R211 to R215). -/

namespace Sys2Proof.Machine

/-- `CRC_ACC <- v`. -/
def State.setCrcAcc (v : Half) (s : State) : State := { s with crc := { s.crc with crcAcc := v } }

/-- The pseudocode of a `GEN` step (R201) on the CRC unit. -/
def CrcUnit.genStep (c : CrcUnit) : CrcUnit :=
  let crc' := tableIterCrc c.genCrc c.genC
  let c' := c.genC <<< 1
  if c.genJ = 7 then
    let written := c.tbl.set c.genI.toNat crc'
    if c.genI = 255 then { c with tbl := written, genI := 256, genJ := 8, tblReady := true }
    else
      { c with
        tbl := written
        genI := c.genI + 1
        genJ := 0
        genCrc := 0
        genC := entryStart (c.genI.toNat + 1) }
  else { c with genJ := c.genJ + 1, genCrc := crc', genC := c' }

/-- A `GEN` step, enabled exactly while `TBL_READY = 0` (R201); the agent exists only in a block whose table is generated
(R40). -/
def State.genMove (s : State) : Option State :=
  if s.params.tableImpl = .generator ∧ s.crc.tblReady = false then some { s with crc := s.crc.genStep } else none

/-- CRC_INIT (R211): no table hold. -/
def execCrcInit (s : State) : Host.Outcome State Fault Refusal := .next (s.setCrcAcc 0).retire

/-- CRC_UPDATE (R212). -/
def execCrcUpdate (b : Byte) (s : State) : Host.Outcome State Fault Refusal :=
  .next (s.whenTable fun s => (s.setCrcAcc (crcStep s.crc.tbl s.crc.crcAcc b)).retire)

/-- CRC_READ (R213): no table hold. -/
def execCrcRead (s : State) : Host.Outcome State Fault Refusal :=
  .next (s.emitOut (.result (zext32 s.crc.crcAcc))).retire

/-- TBL_READ (R214). -/
def execTblRead (i : Nat) (s : State) : Host.Outcome State Fault Refusal :=
  .next (s.whenTable fun s => (s.emitOut (.result (zext32 (tblAt s.crc.tbl i)))).retire)

/-- CRC_BLOCK (R215): the whole block is one atomic step. -/
def execCrcBlock (n : Nat) (s : State) : Host.Outcome State Fault Refusal :=
  .next (s.whenTable fun s => s.withDin n fun data s =>
    (s.setCrcAcc (crcRun s.crc.tbl s.crc.crcAcc data)).retire)

end Sys2Proof.Machine
end

