-- ==== Sys2Proof/Machine/Framer.lean ====
section
/-! DEFINITION. The framer and synchronizer commands TX_FRAME, SYNC_APPEND, SYNC_EXTRACT and SYNC_CLEAR
(41_framer.md R260, R262 to R264). -/

namespace Sys2Proof.Machine

/-- The step of TX_FRAME that writes (R260), taken with the session lock free. -/
def State.txWrite (p : List Byte) (s : State) : State :=
  ((s.sendFrame (encodeFrame s.crc.tbl p)).reportWrite s.writeOutcome .cmd).retire

/-- TX_FRAME (R260). It takes two steps (R15): one takes the payload from `DIN` (R147), and the next, enabled only when
`SEQ_STATE = IDLE` and `CANCEL = 0`, writes the frame and retires. In between the payload waits in `cmdData`. -/
def execTxFrame (n : Nat) (s : State) : Host.Outcome State Fault Refusal :=
  .next (s.whenTable fun s =>
    match s.cmdData with
    | none => s.withDin n fun p s => { s with cmdData := some p }
    | some p => s.whenLockFree fun s => s.txWrite p)

/-- The ownership test of R262 to R264: the host may use `ACC` only while the poller is `STOPPED`; otherwise `OWN_ERR`
with the command word. -/
def State.whenHostOwnsAcc (s : State) (act : State → State) : State :=
  if s.poll.state = .stopped then act s else s.raise (.ownErr s.cmdWord)

/-- SYNC_APPEND (R262): the bytes are taken even when the command is refused. No table hold. -/
def execSyncAppend (n : Nat) (s : State) : Host.Outcome State Fault Refusal :=
  .next (s.withDin n fun b s => (s.whenHostOwnsAcc fun s => s.accPush b).retire)

/-- The payload records and the result record of SYNC_EXTRACT (R263). -/
def extractRecords (out : List (List Byte)) : List OutRecord :=
  out.map .payload ++ [.result (BitVec.ofNat 32 out.length)]

/-- `Emit(OUT, r)` for each record of a list, in order. -/
def State.emitOutAll (rs : List OutRecord) (s : State) : State := { s with out := s.out ++ rs }

/-- SYNC_EXTRACT (R263). -/
def execSyncExtract (s : State) : Host.Outcome State Fault Refusal :=
  .next (s.whenTable fun s =>
    (s.whenHostOwnsAcc fun s => s.accScan.emitOutAll (extractRecords s.scanOut)).retire)

/-- SYNC_CLEAR (R264): no table hold, and no `RX_CLR`. -/
def execSyncClear (s : State) : Host.Outcome State Fault Refusal :=
  .next (s.whenHostOwnsAcc fun s => { s with acc := [] }).retire

end Sys2Proof.Machine
end

