-- ==== Sys2Proof/Machine/Telemetry.lean ====
section
/-! DEFINITION. The telemetry decoder (42_telemetry.md R300 to R308) and DECODE_GV (R310). -/

namespace Sys2Proof.Machine

/-- R301: at most one leading byte equal to `GET_VALUES_ID` is stripped. -/
def stripEcho : List Byte → List Byte
  | [] => []
  | b :: q => if b = Config.getValuesId then q else b :: q

/-- A 16-bit signed field at offset `o` (20_memory.md R104). -/
def fieldI16 (q : List Byte) (o : Nat) : Int := (be16 q o).toInt

/-- A 32-bit signed field at offset `o` (20_memory.md R104). -/
def fieldI32 (q : List Byte) (o : Nat) : Int := (be32 q o).toInt

/-- The fixed layout of R303, over a stripped payload of at least 52 bytes; bytes beyond offset 51 are ignored (R306). -/
def telemetryOf (q : List Byte) : Telemetry where
  tempFet := fieldI16 q 0
  tempMotor := fieldI16 q 2
  currentMotor := fieldI32 q 4
  currentIn := fieldI32 q 8
  id := fieldI32 q 12
  iq := fieldI32 q 16
  duty := fieldI16 q 20
  rpm := fieldI32 q 22
  vIn := fieldI16 q 26
  ampHours := fieldI32 q 28
  ampHoursCharged := fieldI32 q 32
  wattHours := fieldI32 q 36
  wattHoursCharged := fieldI32 q 40
  tachometer := fieldI32 q 44
  tachometerAbs := fieldI32 q 48

/-- `decode_gv(p)` (R308), with the two length gates of R302. -/
def decodeGv (p : List Byte) : GvResult :=
  let q := stripEcho p
  if q.length < 46 then .null p .short
  else if q.length < 52 then .null p .unpack
  else .sample (telemetryOf q)

/-- The physical values of a sample's fields in R303's order: raw / scale, an exact rational (R303, R305). The block does no
division (R304), so no step reads this. -/
def physicalValues (f : Telemetry) : List Rat :=
  [f.tempFet / 10, f.tempMotor / 10, f.currentMotor / 100, f.currentIn / 100, f.id / 100, f.iq / 100, f.duty / 1000, f.rpm,
   f.vIn / 10, f.ampHours / 10000, f.ampHoursCharged / 10000, f.wattHours / 10000, f.wattHoursCharged / 10000, f.tachometer,
   f.tachometerAbs]

/-- The record DECODE_GV emits for an answer of `decode_gv` (R310). -/
def GvResult.record : GvResult → OutRecord
  | .sample f => .decoded f
  | .null p reason => .decodeNull p reason

/-- DECODE_GV (R310): no table hold, no sticky bit, no counter. -/
def execDecodeGv (n : Nat) (s : State) : Host.Outcome State Fault Refusal :=
  .next (s.withDin n fun p s => (s.emitOut (decodeGv p).record).retire)

end Sys2Proof.Machine
end

