-- ==== Sys2Proof/Machine/Poller.lean ====
section
/-! DEFINITION. The telemetry poller and response correlator (44_poller.md): the steps of the `POLL` agent and the
commands POLL_START, POLL_START_TEMP, POLL_PAUSE, POLL_RESUME and POLL_STOP. -/

namespace Sys2Proof.Machine

/-- `AUTO_PAUSED <- 0`. -/
def State.clearAutoPaused (s : State) : State := { s with seq := { s.seq with autoPaused := false } }

/-- Ticks since the poller's start: `(NOW - POLL_T0) mod 2^32` (R434, R440). -/
def State.pollAge (s : State) : Word := s.now - s.poll.t0

/-! ### Commands -/

/-- The actions of POLL_START on a stopped poller (R430). -/
def State.pollBegin (s : State) : State :=
  { s.clearAutoPaused with
    poll := { state := .running, phase := .tick, wait := 0, t0 := s.now, tempActive := false, tempLeft := 0 }
    acc := [] }

/-- POLL_START (R430). -/
def execPollStart (s : State) : Host.Outcome State Fault Refusal :=
  .next (if s.poll.state = .stopped then s.pollBegin else s).retire

/-- `TEMP_ACTIVE <- 1; TEMP_LEFT <- d` (R431). -/
def State.openWindow (d : Nat) (s : State) : State :=
  { s with poll := { s.poll with tempActive := true, tempLeft := Word.ofTicks d } }

/-- POLL_START_TEMP (R431). -/
def execPollStartTemp (d : Nat) (s : State) : Host.Outcome State Fault Refusal :=
  .next (if s.poll.state = .stopped then s.pollBegin.openWindow d else s).retire

/-- The actions of POLL_PAUSE on a poller that is not stopped (R432). -/
def State.pollPauseNow (s : State) : State :=
  { s.clearAutoPaused with poll := { s.poll with state := .paused, phase := .tick } }

/-- POLL_PAUSE (R432). -/
def execPollPause (s : State) : Host.Outcome State Fault Refusal :=
  .next (if s.poll.state = .stopped then s else s.pollPauseNow).retire

/-- The actions of POLL_RESUME on a paused poller (R433). -/
def State.pollResumeNow (s : State) : State :=
  { s.clearAutoPaused with poll := { s.poll with state := .running, phase := .tick, wait := 0 } }

/-- POLL_RESUME (R433). -/
def execPollResume (s : State) : Host.Outcome State Fault Refusal :=
  .next (if s.poll.state = .paused then s.pollResumeNow else s).retire

/-- `poll_stop()` (R434). -/
def State.pollStop (s : State) : State :=
  if s.poll.state = .stopped then s
  else
    State.emitLog (.logClose s.pollAge)
      { s.clearAutoPaused with
        poll := { s.poll with state := .stopped, phase := .tick, wait := 0, tempActive := false, tempLeft := 0 } }

/-- POLL_STOP (R434). -/
def execPollStop (s : State) : Host.Outcome State Fault Refusal := .next s.pollStop.retire

/-! ### Steps of the POLL agent -/

/-- The temporary window has expired (R438). -/
def State.windowExpired (s : State) : Bool := s.poll.tempActive && elapsed s.poll.tempLeft

/-- `SAMPLE_COUNT <- SAMPLE_COUNT + 1` and the sample's record on `LOG` (R440). -/
def State.recordSample (f : Telemetry) (s : State) : State :=
  State.emitLog (.sample s.pollAge f)
    { s with counters := { s.counters with sample := s.counters.sample + 1 } }

/-- `poll_payload(p)` (R440). -/
def State.pollPayload (p : List Byte) (s : State) : State :=
  match decodeGv p with
  | .sample f => s.recordSample f
  | .null q reason => s.raise (.decodeNull q reason)

/-- `poll_payload` for each extracted payload, in order (R436). -/
def State.pollPayloads (ps : List (List Byte)) (s : State) : State := ps.foldl (fun st p => st.pollPayload p) s

/-- `POLL_PHASE <- ph; POLL_WAIT <- d`. -/
def State.setPollPhase (ph : PollPhase) (d : Nat) (s : State) : State :=
  { s with poll := { s.poll with phase := ph, wait := Word.ofTicks d } }

/-- The send step (R435). -/
def State.pollSend (s : State) : State :=
  let t := s.sendFrame s.requestFrame
  match s.writeOutcome with
  | .ok => t.setPollPhase .resp t.params.respWait
  | .err => (t.raise (.ioErrWrite .poll)).setPollPhase .tick t.params.backoff

/-- A read that failed or brought no byte (R436). -/
def State.pollReadFailed (s : State) : State :=
  (s.raise (.ioErrRead .poll)).setPollPhase .tick s.params.backoff

/-- A read that brought bytes (R436): push, scan, decode each payload. -/
def State.pollReadBytes (b : List Byte) (s : State) : State :=
  let pushed := s.accPush b
  (pushed.accScan.pollPayloads pushed.scanOut).setPollPhase .tick s.params.pollInterval

/-- The read step (R436). -/
def State.pollRead (s : State) : State :=
  match s.readResult with
  | .err => s.chanRead.pollReadFailed
  | .bytes [] => s.chanRead.pollReadFailed
  | .bytes (b :: bs) => s.chanRead.pollReadBytes (b :: bs)

/-- Whether the `POLL` step of the present state is a send or a read with all its guards met (R435, R436, R438; R210 for
the read's table hold, log entry 8). -/
def State.pollUsesChannel (s : State) : Bool :=
  s.poll.state == .running && elapsed s.poll.wait && s.crc.tblReady && !s.windowExpired

/-- The enabled step of the `POLL` agent, none when it holds: the expiry of the temporary window pre-empts the tick
(R438). -/
def State.pollMove (s : State) : Option State :=
  if s.windowExpired && s.poll.state != .stopped then some s.pollStop
  else if s.pollUsesChannel then
    match s.poll.phase with
    | .tick => some s.pollSend
    | .resp => some s.pollRead
  else none

end Sys2Proof.Machine
end

