-- ==== Sys2Proof/Machine/Sequencer.lean ====
section
/-! DEFINITION. The duty ramp-and-stop sequencer and the session gate (43_duty_sequencer.md): the session operations, the
steps of the `SEQ` agent, and the commands SET_DUTY, RAMP_AND_HOLD, TRIGGER, HARD_STOP and ESTOP. -/

namespace Sys2Proof.Machine

/-! ### Session operations -/

/-- `enter_stopping(w)` (R370). -/
def State.enterStopping (w : Word) (s : State) : State :=
  { s with seq := { s.seq with state := .stopping, stopPhase := .burst, stopCnt := 0, wait := w } }

/-- The pause of a running poller at session start (R352). -/
def State.autoPause (s : State) : State :=
  if s.params.pausePollerInSession = true ∧ s.poll.state = .running then
    { s with
      poll := { s.poll with state := .paused, phase := .tick }
      seq := { s.seq with autoPaused := true } }
  else s

/-- `start_session(k)` (R352). -/
def State.startSession (k : SessionKind) (s : State) : State :=
  State.autoPause { s with seq := { s.seq with sessionKind := k } }

/-- `TARGET <- clamp(t, -MAX_DUTY, MAX_DUTY)` (R351). -/
def rampTarget (p : Config.Params) (t : Int) : BitVec 8 := BitVec.ofInt 8 (clamp t (-(p.maxDuty : Int)) p.maxDuty)

/-- The body common to RAMP_AND_HOLD and an accepted TRIGGER (R350, R390): the ramp registers, `start_session(k)`, and the
session lock taken. -/
def State.startRamp (k : SessionKind) (t : Int) (h : Nat) (s : State) : State :=
  let s1 : State :=
    { s with seq := { s.seq with
        target := rampTarget s.params t, hold := BitVec.ofNat 16 h, rampK := 1, wait := 0 } }
  let s2 := s1.startSession k
  { s2 with seq := { s2.seq with state := .rampingUp } }

/-- `abort_session()` (R358). -/
def State.abortSession (s : State) : State :=
  ((s.raise (.ioErrWrite .seq)).raise (.sessionAbort s.seq.state)).enterStopping 0

/-- The gate's part of `complete_session()` (R376). -/
def State.closeGate (s : State) : State :=
  if s.seq.sessionGated then
    { s with
      seq := { s.seq with sessionGated := false }
      gate := if s.params.cooldown = 0 then { s.gate with state := .idle }
              else { state := .cooldown, wait := Word.ofTicks s.params.cooldown } }
  else s

/-- The poller's part of `complete_session()` (R376). -/
def State.autoResume (s : State) : State :=
  if s.seq.autoPaused then
    { s with
      seq := { s.seq with autoPaused := false }
      poll := if s.poll.state = .paused then { s.poll with state := .running, phase := .tick, wait := 0 }
              else s.poll }
  else s

/-- `complete_session()` (R376). -/
def State.completeSession (s : State) : State :=
  let s1 : State := { s with seq := { s.seq with state := .idle, cancel := false } }
  let s2 := s1.closeGate.autoResume
  { s2 with seq := { s2.seq with sessionKind := .none } }

/-! ### Steps of the SEQ agent -/

/-- `TARGET` as a signed percent. -/
def State.targetPct (s : State) : Int := s.seq.target.toInt

/-- `|TARGET|`. -/
def State.targetMag (s : State) : Nat := s.seq.target.toInt.natAbs

/-- The duty of the next ramp-up frame (R353). -/
def State.rampUpDuty (s : State) : Int :=
  if s.seq.rampK.toNat ≤ s.targetMag then s.targetPct.sign * s.seq.rampK.toNat else s.targetPct

/-- The duty of the next ramp-down frame (R356). -/
def State.rampDownDuty (s : State) : Int := s.targetPct.sign * s.seq.rampK.toNat

/-- What follows a ramp-up frame that was written (R353). -/
def State.rampUpNext (s : State) : State :=
  if s.seq.rampK.toNat ≤ s.targetMag then
    { s with seq := { s.seq with rampK := s.seq.rampK + 1, wait := Word.ofTicks s.params.stepDelay } }
  else { s with seq := { s.seq with state := .holding, wait := s.seq.hold.setWidth 32 } }

/-- The RAMPING_UP step (R353). -/
def State.rampUpStep (s : State) : State :=
  let t := s.sendDuty s.rampUpDuty
  match s.writeOutcome with
  | .err => t.abortSession
  | .ok => t.rampUpNext

/-- The end of the hold (R355). -/
def State.endHold (s : State) : State :=
  if s.params.stopMode = .rampDown ∧ 2 ≤ s.targetMag then
    { s with seq := { s.seq with
        state := .rampingDown
        rampK := BitVec.ofNat 7 (s.targetMag - 1)
        wait := Word.ofTicks s.params.stepDelay } }
  else s.enterStopping 0

/-- What follows a ramp-down frame that was written (R356). -/
def State.rampDownNext (s : State) : State :=
  if 1 < s.seq.rampK.toNat then
    { s with seq := { s.seq with rampK := s.seq.rampK - 1, wait := Word.ofTicks s.params.stepDelay } }
  else s.enterStopping (Word.ofTicks s.params.stepDelay)

/-- The RAMPING_DOWN step (R356). -/
def State.rampDownStep (s : State) : State :=
  let t := s.sendDuty s.rampDownDuty
  match s.writeOutcome with
  | .err => t.abortSession
  | .ok => t.rampDownNext

/-- Stop step (1), `BURST` (R371): best effort, an error is only reported. -/
def State.burstStep (s : State) : State :=
  let t := (s.sendDuty 0).reportWrite s.writeOutcome .seq
  let cnt := t.seq.stopCnt + 1
  { t with seq := { t.seq with
      stopCnt := cnt
      stopPhase := if cnt.toNat < t.params.stopBurstN then .burst else .current
      wait := Word.ofTicks t.params.stopBurstGap } }

/-- Stop step (2), `CURRENT` (R372). -/
def State.currentStep (s : State) : State :=
  let t := s.sendCurrentZero.reportWrite s.writeOutcome .seq
  { t with seq := { t.seq with
      stopPhase := .sustain, stopCnt := 0, wait := Word.ofTicks t.params.stopSustainGap } }

/-- Stop step (3), `SUSTAIN` (R373). -/
def State.sustainStep (s : State) : State :=
  let t := (s.sendDuty 0).reportWrite s.writeOutcome .seq
  let cnt := t.seq.stopCnt + 1
  if cnt.toNat < t.params.stopSustainN then
    { t with seq := { t.seq with stopCnt := cnt, wait := Word.ofTicks t.params.stopSustainGap } }
  else { t with seq := { t.seq with stopCnt := cnt, stopPhase := .flush, wait := 0 } }

/-- Stop step (4), `FLUSH` (R374): `ACC` is not cleared. -/
def State.flushStep (s : State) : State :=
  let t := s.chanFlush
  if t.params.stopReconfirm then { t with seq := { t.seq with stopPhase := .reconfirm, wait := 0 } }
  else t.completeSession

/-- Stop step (5), `RECONFIRM` (R375). -/
def State.reconfirmStep (s : State) : State :=
  (s.sendCurrentZero.reportWrite s.writeOutcome .seq).completeSession

/-- Whether the `SEQ` step of the present state sends a frame or flushes the channel, with all its guards met: the cases
of R353, R356 and R371 to R375. -/
def State.seqUsesChannel (s : State) : Bool :=
  match s.seq.state with
  | .idle => false
  | .rampingUp => !s.seq.cancel && elapsed s.seq.wait && s.crc.tblReady
  | .holding => false
  | .rampingDown => !s.seq.cancel && elapsed s.seq.wait && s.crc.tblReady
  | .stopping =>
    match s.seq.stopPhase with
    | .flush => elapsed s.seq.wait
    | .burst => elapsed s.seq.wait && s.crc.tblReady
    | .current => elapsed s.seq.wait && s.crc.tblReady
    | .sustain => elapsed s.seq.wait && s.crc.tblReady
    | .reconfirm => elapsed s.seq.wait && s.crc.tblReady

/-- The stop procedure's step in its phase (R371 to R375). -/
def State.stopStep (s : State) : State :=
  match s.seq.stopPhase with
  | .burst => s.burstStep
  | .current => s.currentStep
  | .sustain => s.sustainStep
  | .flush => s.flushStep
  | .reconfirm => s.reconfirmStep

/-- The emergency start from IDLE (R380). -/
def State.emergencyStart (s : State) : State := (s.startSession .emergency).enterStopping 0

/-- The enabled session step of the `SEQ` agent, none when it holds (R353 to R357, R370 to R375, R380). In `STOPPING` the
flag `CANCEL` is not looked at (R376). -/
def State.seqMove (s : State) : Option State :=
  match s.seq.state with
  | .idle => if s.seq.cancel then some s.emergencyStart else none
  | .rampingUp =>
    if s.seq.cancel then some (s.enterStopping 0) else if s.seqUsesChannel then some s.rampUpStep else none
  | .holding =>
    if s.seq.cancel then some (s.enterStopping 0) else if elapsed s.seq.wait then some s.endHold else none
  | .rampingDown =>
    if s.seq.cancel then some (s.enterStopping 0) else if s.seqUsesChannel then some s.rampDownStep else none
  | .stopping => if s.seqUsesChannel then some s.stopStep else none

/-- The cooldown release (R392), independent of `SEQ_STATE`. -/
def State.gateReleaseMove (s : State) : Option State :=
  if s.gate.state = .cooldown ∧ elapsed s.gate.wait then some { s with gate := { s.gate with state := .idle } } else none

/-! ### Commands -/

/-- The step of SET_DUTY that writes (R345, R346). -/
def State.setDutyWrite (x : Int) (s : State) : State :=
  ((s.sendDuty (clamp x (-Config.dutyClamp) Config.dutyClamp)).reportWrite s.writeOutcome .cmd).retire

/-- SET_DUTY (R345). -/
def execSetDuty (x : Int) (s : State) : Host.Outcome State Fault Refusal :=
  .next (s.whenTable fun s => s.whenLockFree fun s => s.setDutyWrite x)

/-- RAMP_AND_HOLD (R350): it retires once the session has started. -/
def execRampAndHold (t : Int) (h : Nat) (s : State) : Host.Outcome State Fault Refusal :=
  .next (s.whenTable fun s => s.whenLockFree fun s => (s.startRamp .ramp t h).retire)

/-- The gate and the mark of a gated session, set when a TRIGGER is accepted (R390). -/
def State.takeGate (s : State) : State :=
  { s with gate := { s.gate with state := .busy }, seq := { s.seq with sessionGated := true } }

/-- TRIGGER (R390): it never holds on the session lock. -/
def execTrigger (t : Int) (h : Nat) (s : State) : Host.Outcome State Fault Refusal :=
  .next (s.whenTable fun s =>
    (if s.gate.state = .idle ∧ s.lockFree then s.takeGate.startRamp .gated t h
     else s.raise (.triggerReject s.cmdWord)).retire)

/-- HARD_STOP (R381), the cooperative stop. -/
def execHardStop (s : State) : Host.Outcome State Fault Refusal :=
  .next (s.whenTable fun s => s.whenLockFree fun s => ((s.startSession .hard).enterStopping 0).retire)

/-- `CANCEL <- 1`, by the pin or by the command (R380). -/
def State.setCancel (s : State) : State := { s with seq := { s.seq with cancel := true } }

/-- ESTOP (R380): no hold of any kind. -/
def execEstop (s : State) : Host.Outcome State Fault Refusal := .next s.setCancel.retire

end Sys2Proof.Machine
end

