-- ==== Sys2Proof/Machine/Status.lean ====
section
/-! DEFINITION. The housekeeping commands NOP, STAT_READ and STATUS_CLEAR (45_status.md R480, R482, R483) and the reserved
opcodes (R484). -/

namespace Sys2Proof.Machine

/-- NOP (R483). -/
def execNop (s : State) : Host.Outcome State Fault Refusal := .next s.retire

/-- STAT_READ (R480). -/
def execStatRead (i : Nat) (s : State) : Host.Outcome State Fault Refusal :=
  .next (match s.statVal i with
    | some v => s.emitOut (.result v)
    | none => s.raise (.illegalCmd s.cmdWord)).retire

/-- STATUS_CLEAR (R482). -/
def execStatusClear (s : State) : Host.Outcome State Fault Refusal := .next (State.retire { s with sticky := 0 })

/-- A word with a reserved opcode (R144, R484): `ILLEGAL_CMD` with the whole word, and it retires. -/
def execReserved (w : Word) (s : State) : Host.Outcome State Fault Refusal := .next (s.raise (.illegalCmd w)).retire

end Sys2Proof.Machine
end

