-- ==== Sys2Proof/Machine/Dispatch.lean ====
section
/-! DEFINITION. The dispatch of a decoded command to its meaning (30_encoding.md R143, R146). -/

namespace Sys2Proof.Machine

def exec (i : Instr) (s : State) : Host.Outcome State Fault Refusal :=
  match i with
  | .nop => Sys2Proof.Machine.execNop s
  | .crcInit => Sys2Proof.Machine.execCrcInit s
  | .crcUpdate b => Sys2Proof.Machine.execCrcUpdate b s
  | .crcRead => Sys2Proof.Machine.execCrcRead s
  | .tblRead k => Sys2Proof.Machine.execTblRead k s
  | .crcBlock n => Sys2Proof.Machine.execCrcBlock n s
  | .txFrame n => Sys2Proof.Machine.execTxFrame n s
  | .syncAppend n => Sys2Proof.Machine.execSyncAppend n s
  | .syncExtract => Sys2Proof.Machine.execSyncExtract s
  | .syncClear => Sys2Proof.Machine.execSyncClear s
  | .decodeGv n => Sys2Proof.Machine.execDecodeGv n s
  | .setDuty x => Sys2Proof.Machine.execSetDuty x s
  | .rampAndHold t h => Sys2Proof.Machine.execRampAndHold t h s
  | .trigger t h => Sys2Proof.Machine.execTrigger t h s
  | .hardStop => Sys2Proof.Machine.execHardStop s
  | .estop => Sys2Proof.Machine.execEstop s
  | .pollStart => Sys2Proof.Machine.execPollStart s
  | .pollStartTemp d => Sys2Proof.Machine.execPollStartTemp d s
  | .pollPause => Sys2Proof.Machine.execPollPause s
  | .pollResume => Sys2Proof.Machine.execPollResume s
  | .pollStop => Sys2Proof.Machine.execPollStop s
  | .statRead k => Sys2Proof.Machine.execStatRead k s
  | .statusClear => Sys2Proof.Machine.execStatusClear s

end Sys2Proof.Machine
end

