-- ==== Sys2Proof/Machine/Agents.lean ====
section
/-! DEFINITION. One step of each agent (10_state.md R40), the channel arbiter (20_memory.md R112), the host's inputs, the
channel's own steps, and reset (70_reset_and_hazards.md R550). -/

namespace Sys2Proof.Machine

/-- `CLK`: one tick (R44). -/
def State.clkStep (s : State) : State :=
  { s with
    now := s.now + 1
    seq := { s.seq with wait := tickDown s.seq.wait }
    poll := { s.poll with wait := tickDown s.poll.wait, tempLeft := tickDown s.poll.tempLeft }
    gate := { s.gate with wait := tickDown s.gate.wait } }

/-- `CMD` (R146): it decodes the word at `CMD_IDX` and executes it; with no word presented it has no step. -/
def State.cmdMove (s : State) : Host.Outcome State Fault Refusal :=
  match s.cmdPort with
  | [] => .next s
  | w :: _ =>
    match decode w with
    | .instr i => exec i s
    | .reserved _ => execReserved w s

/-- Whether a command's next step writes to the channel, with its holds passed (R342: SET_DUTY, and TX_FRAME once its
payload is taken). -/
def State.commandUsesChannel (s : State) : Instr → Bool
  | .setDuty _ => s.crc.tblReady && s.lockFree
  | .txFrame _ => s.crc.tblReady && s.lockFree && s.cmdData.isSome
  | .nop | .crcInit | .crcUpdate _ | .crcRead | .tblRead _ | .crcBlock _ | .syncAppend _ | .syncExtract | .syncClear
  | .decodeGv _ | .rampAndHold _ _ | .trigger _ _ | .hardStop | .estop | .pollStart | .pollStartTemp _ | .pollPause
  | .pollResume | .pollStop | .statRead _ | .statusClear => false

/-- Whether the `CMD` step of the present state writes to the channel. -/
def State.cmdUsesChannel (s : State) : Bool :=
  match s.cmdPort with
  | [] => false
  | w :: _ =>
    match decode w with
    | .instr i => s.commandUsesChannel i
    | .reserved _ => false

/-- An agent with no enabled step takes no step (R514). -/
def orHold (s : State) (m : Option State) : Host.Outcome State Fault Refusal := .next (m.getD s)

/-- The channel arbiter (R112): of the agents with a channel step enabled, `SEQ` first, then `CMD`, then `POLL`. -/
def State.arbiterMove (s : State) : Host.Outcome State Fault Refusal :=
  if s.seqUsesChannel then orHold s s.seqMove
  else if s.cmdUsesChannel then s.cmdMove
  else if s.pollUsesChannel then orHold s s.pollMove
  else .next s

/-- `HOST` presents the next command word (R146). -/
def State.present (w : Word) (s : State) : State := { s with cmdPort := s.cmdPort ++ [w] }

/-- `HOST` pushes a byte at the tail of `DIN`; into a full `DIN` the push holds (R56). -/
def State.pushDin (b : Byte) (s : State) : Option State :=
  if s.din.length < s.params.dinDepth then some { s with din := s.din ++ [b] } else none

/-- Bytes arrive on the channel and wait to be read (R83). -/
def State.chanArrive (bs : List Byte) (s : State) : State := { s with chan := { s.chan with rx := s.chan.rx ++ bs } }

/-- Accepted output bytes go out on the serial line, in order (R83, R115). -/
def State.chanSend (n : Nat) (s : State) : State :=
  { s with chan := { s.chan with tx := s.chan.tx.drop n, line := s.chan.line ++ s.chan.tx.take n } }

/-- Reset (R550): every state element takes its value of R90; the parameters and the channel stay, and nothing is written
to the channel. -/
def State.afterReset (s : State) : State :=
  State.resetWith s.params s.chan s.draw s.schedule (s.turns + 1)

/-- The step of one move. -/
def runMove (m : Move) (s : State) : Host.Outcome State Fault Refusal :=
  match m with
  | .cmd => s.cmdMove
  | .gen => orHold s s.genMove
  | .poll => orHold s s.pollMove
  | .seq => orHold s s.seqMove
  | .gateRelease => orHold s s.gateReleaseMove
  | .clk => .next s.clkStep
  | .arbiter => s.arbiterMove
  | .hostPresent w => .next (s.present w)
  | .hostPush b => orHold s (s.pushDin b)
  | .hostEstop => .next s.setCancel
  | .hostReset => .next s.afterReset
  | .chanReceive bs => .next (s.chanArrive bs)
  | .chanTransmit n => .next (s.chanSend n)

/-- The turn that comes next: the schedule's first, or a free one when the schedule says nothing (R41). -/
def State.nextTurn (s : State) : Turn :=
  match s.schedule with
  | t :: _ => t
  | [] => Config.freeTurn s.turns

/-- The state in which that turn's step is taken: the turn used up, and its channel choices ready. -/
def State.begin (s : State) : State :=
  match s.schedule with
  | t :: ts => { s with schedule := ts, draw := t.draw }
  | [] => { s with turns := s.turns + 1, draw := (Config.freeTurn s.turns).draw }

/-- The word an instruction of the opcode table is, placed first at the command port, with `CMD` to move next; no
command is under way. -/
def State.loadCommand (w : Word) (s : State) : State :=
  { s with
    cmdPort := w :: s.cmdPort
    cmdData := none
    schedule := { move := .cmd, draw := s.draw } :: s.schedule }

end Sys2Proof.Machine
end

