-- ==== Sys2Proof/Machine/Step.lean ====
section
/-! DEFINITION. One step of the machine: one step of one agent (10_state.md R40, R41). -/

namespace Sys2Proof.Machine

/-- One step: the next turn's agent takes its step. The schedule in State says whose turn it is, so the claims over every
state cover every interleaving (R41, log entry 1). -/
def step (s : State) : Host.Outcome State Fault Refusal := runMove s.nextTurn.move s.begin

/-- `s` with the word of an opcode-table row as the command that the very next step executes. -/
def State.withFetchWord (s : State) (nbits w : Nat) : State := s.loadCommand (tableWord nbits w)

end Sys2Proof.Machine
end

