-- ==== Sys2Proof/Safety.lean ====
section
/-! DEFINITION. The terms the claims use: the invariant of the block, the columns of the opcode map, the records of a
session, runs of one agent, and fair runs of all of them. -/

namespace Sys2Proof.Machine

/-! ### The invariant -/

/-- `TBL_READY` and the generator (10_state.md R50 to R52, 40_crc.md R201): a ready table holds the final values of R200;
before that the entries below `GEN_I` are final, and `GEN_CRC` and `GEN_C` are R200's loop for entry `GEN_I` after `GEN_J`
iterations. -/
def CrcUnit.Inv (c : CrcUnit) : Prop :=
  c.tbl.length = 256
  ∧ (c.tblReady = true → c.tbl = romTable)
  ∧ (c.tblReady = false →
      c.genI.toNat < 256 ∧ c.genJ.toNat < 8
      ∧ c.tbl.take c.genI.toNat = romTable.take c.genI.toNat
      ∧ (c.genCrc, c.genC) = tableIters c.genJ.toNat 0 (entryStart c.genI.toNat))

/-- The receive accumulator and the data-in FIFO stay within their capacities (R55, R56). -/
def State.BuffersInv (s : State) : Prop :=
  s.acc.length ≤ s.params.rxCap ∧ s.din.length ≤ s.params.dinDepth

/-- The duty and target registers hold percents in range (R61, R63, 43_duty_sequencer.md R394). -/
def State.DutyInv (s : State) : Prop :=
  s.seq.duty.toInt.natAbs ≤ 100 ∧ s.seq.target.toInt.natAbs ≤ s.params.maxDuty

/-- The session lock, the session's kind, the gate and the auto-pause agree (R69, R70, R71, R83, R341): a session exists
exactly while the lock is held, a gated one exactly while the gate is busy, and a pause is owed only during a session and
to a paused poller. -/
def State.SessionInv (s : State) : Prop :=
  (s.seq.state = .idle ↔ s.seq.sessionKind = .none)
  ∧ (s.seq.sessionGated = true ↔ s.seq.sessionKind = .gated)
  ∧ (s.seq.sessionGated = true ↔ s.gate.state = .busy)
  ∧ (s.seq.autoPaused = true → s.seq.state ≠ .idle ∧ s.poll.state = .paused)
  ∧ (s.gate.state ≠ .cooldown → s.gate.wait = 0)

/-- The ramp index in each state that uses it, and the kinds that ramp (R65, R353, R356). -/
def State.RampInv (s : State) : Prop :=
  (s.seq.state = .rampingUp → 1 ≤ s.seq.rampK.toNat ∧ s.seq.rampK.toNat ≤ s.targetMag + 1)
  ∧ (s.seq.state = .rampingDown → 1 ≤ s.seq.rampK.toNat ∧ s.seq.rampK.toNat + 1 ≤ s.targetMag)
  ∧ (s.seq.state = .rampingUp ∨ s.seq.state = .holding ∨ s.seq.state = .rampingDown →
      s.seq.sessionKind = .ramp ∨ s.seq.sessionKind = .gated)

/-- The frame count of the stop phases that count (R66, R371, R373). -/
def State.StopInv (s : State) : Prop :=
  s.seq.state = .stopping →
    (s.seq.stopPhase = .burst → s.seq.stopCnt.toNat < s.params.stopBurstN)
    ∧ (s.seq.stopPhase = .sustain → s.seq.stopCnt.toNat < s.params.stopSustainN)
    ∧ (s.seq.stopPhase = .reconfirm → s.params.stopReconfirm = true)

/-- The poller's phase and temporary window (R76, R78, 44_poller.md R434, R435). -/
def State.PollInv (s : State) : Prop :=
  (s.poll.phase = .resp → s.poll.state = .running ∧ s.crc.tblReady = true)
  ∧ (s.poll.tempActive = true → s.poll.state ≠ .stopped)
  ∧ (s.poll.tempActive = false → s.poll.tempLeft = 0)
  ∧ (s.poll.state = .stopped → s.poll.wait = 0)

/-- A payload waits at the command port only for the TX_FRAME that took it (41_framer.md R260). -/
def State.PortInv (s : State) : Prop :=
  ∀ p, s.cmdData = some p → ∃ w ws, s.cmdPort = w :: ws ∧ decode w = .instr (.txFrame p.length)

/-- What holds in every state a block with allowed parameters can reach. -/
def State.Inv (s : State) : Prop :=
  s.params.Valid
  ∧ s.crc.Inv
  ∧ (s.params.tableImpl = .rom → s.crc.tblReady = true)
  ∧ s.BuffersInv
  ∧ s.DutyInv
  ∧ s.SessionInv
  ∧ s.RampInv
  ∧ s.StopInv
  ∧ s.PollInv
  ∧ s.PortInv

/-! ### The opcode map's columns (30_encoding.md R143) -/

/-- Column "A" of R143. -/
def usesA : Instr → Bool
  | .crcUpdate _ | .tblRead _ | .rampAndHold _ _ | .trigger _ _ | .statRead _ => true
  | .nop | .crcInit | .crcRead | .crcBlock _ | .txFrame _ | .syncAppend _ | .syncExtract | .syncClear
  | .decodeGv _ | .setDuty _ | .hardStop | .estop | .pollStart | .pollStartTemp _ | .pollPause | .pollResume
  | .pollStop | .statusClear => false

/-- Column "B" of R143. -/
def usesB : Instr → Bool
  | .crcBlock _ | .txFrame _ | .syncAppend _ | .decodeGv _ | .setDuty _ | .rampAndHold _ _ | .trigger _ _
  | .pollStartTemp _ => true
  | .nop | .crcInit | .crcUpdate _ | .crcRead | .tblRead _ | .syncExtract | .syncClear | .hardStop | .estop
  | .pollStart | .pollPause | .pollResume | .pollStop | .statRead _ | .statusClear => false

/-- Column "Table" of R143. -/
def needsTable : Instr → Bool
  | .crcUpdate _ | .tblRead _ | .crcBlock _ | .txFrame _ | .syncExtract | .setDuty _ | .rampAndHold _ _
  | .trigger _ _ | .hardStop => true
  | .nop | .crcInit | .crcRead | .syncAppend _ | .syncClear | .decodeGv _ | .estop | .pollStart
  | .pollStartTemp _ | .pollPause | .pollResume | .pollStop | .statRead _ | .statusClear => false

/-- Column "DIN" of R143: the byte count of the commands that take bytes. -/
def dinCount : Instr → Option Nat
  | .crcBlock n | .txFrame n | .syncAppend n | .decodeGv n => some n
  | .nop | .crcInit | .crcUpdate _ | .crcRead | .tblRead _ | .syncExtract | .syncClear | .setDuty _
  | .rampAndHold _ _ | .trigger _ _ | .hardStop | .estop | .pollStart | .pollStartTemp _ | .pollPause
  | .pollResume | .pollStop | .statRead _ | .statusClear => none

/-- The reserved opcodes as R144 lists them. -/
def reservedOpcode (op : Nat) : Prop :=
  (0x06 ≤ op ∧ op ≤ 0x0F) ∨ (0x11 ≤ op ∧ op ≤ 0x1F) ∨ (0x23 ≤ op ∧ op ≤ 0x27) ∨ (0x29 ≤ op ∧ op ≤ 0x2F)
  ∨ (0x35 ≤ op ∧ op ≤ 0x3F) ∨ (0x45 ≤ op ∧ op ≤ 0x4F) ∨ (0x52 ≤ op ∧ op ≤ 0xFF)

/-! ### Runs -/

/-- Commands executed one after another, with no other agent's step in between. -/
def execAll : List Instr → State → Host.Outcome State Fault Refusal
  | [], s => .next s
  | i :: is, s =>
    match exec i s with
    | .next t => execAll is t
    | .fault r => .fault r
    | .refused r => .refused r

/-- `n` steps of the table generator (R201). -/
def genRun : Nat → CrcUnit → CrcUnit
  | 0, c => c
  | n + 1, c => genRun n c.genStep

/-- The state in which the sequencer's present wait is over and `CHAN` has chosen `d`. -/
def State.waitedOut (d : ChanDraw) (s : State) : State :=
  { s with draw := d, seq := { s.seq with wait := 0 } }

/-- The steps of the `SEQ` agent, one for each channel choice of the list, every delay waited out first. -/
def seqRun : List ChanDraw → State → State
  | [], s => s
  | d :: ds, s => seqRun ds (((s.waitedOut d).seqMove).getD (s.waitedOut d))

/-! ### Fair runs (70_reset_and_hazards.md R572) -/

/-- The agents inside the block (10_state.md R40), which R572 takes as weakly fair. -/
inductive BlockAgent where
  | cmd
  | gen
  | poll
  | seq
  | clk
  deriving DecidableEq, Repr

/-- The agent has an enabled step in `s`: it does not hold (30_encoding.md R146, 60_exceptions.md R514). `SEQ` has two
kinds of step, of the session and of the cooldown release (43_duty_sequencer.md R392); a tick is always enabled (R44). -/
def BlockAgent.Enabled (s : State) : BlockAgent → Prop
  | .cmd => s.cmdMove ≠ .next s
  | .gen => s.genMove.isSome = true
  | .poll => s.pollMove.isSome = true
  | .seq => s.seqMove.isSome = true ∨ s.gateReleaseMove.isSome = true
  | .clk => True

/-- The move the channel arbiter makes in `s` (20_memory.md R112); every other move is itself. -/
def State.granted (s : State) : Move → Move
  | .arbiter =>
    if s.seqUsesChannel then .seq
    else if s.cmdUsesChannel then .cmd
    else if s.pollUsesChannel then .poll
    else .arbiter
  | .cmd => .cmd
  | .gen => .gen
  | .poll => .poll
  | .seq => .seq
  | .gateRelease => .gateRelease
  | .clk => .clk
  | .hostPresent w => .hostPresent w
  | .hostPush b => .hostPush b
  | .hostEstop => .hostEstop
  | .hostReset => .hostReset
  | .chanReceive bs => .chanReceive bs
  | .chanTransmit n => .chanTransmit n

/-- The move `m` in `s` is a step of the agent, and one that was enabled. -/
def BlockAgent.Takes (s : State) (m : Move) : BlockAgent → Prop
  | .cmd => s.granted m = .cmd ∧ s.cmdMove ≠ .next s
  | .gen => m = .gen ∧ s.genMove.isSome = true
  | .poll => s.granted m = .poll ∧ s.pollMove.isSome = true
  | .seq => s.granted m = .seq ∧ s.seqMove.isSome = true ∨ m = .gateRelease ∧ s.gateReleaseMove.isSome = true
  | .clk => m = .clk

/-- `s` with the turn `t` to come next, and nothing scheduled after it. -/
def State.withTurn (t : Turn) (s : State) : State := { s with schedule := [t] }

/-- A run of the machine in which the turns come one by one, as the environment gives them (log entry 23). -/
def IsRun (turns : Nat → Turn) (r : Nat → State) : Prop := ∀ n, step ((r n).withTurn (turns n)) = .next (r (n + 1))

/-- Weak fairness of every in-block agent (R572): an agent whose steps stay enabled from some point on takes one. -/
def WeaklyFair (turns : Nat → Turn) (r : Nat → State) : Prop :=
  ∀ (a : BlockAgent) (n : Nat), (∀ k, n ≤ k → a.Enabled (r k)) → ∃ k, n ≤ k ∧ a.Takes (r k) (turns k).move

/-- The command at `CMD_IDX` holds for bytes that `DIN` does not have yet (30_encoding.md R147). -/
def State.AwaitsDin (s : State) : Prop :=
  s.cmdData = none ∧ ∃ w ws i n, s.cmdPort = w :: ws ∧ decode w = .instr i ∧ dinCount i = some n
    ∧ n ≤ s.params.dinDepth ∧ s.din.length < n

/-- `HOST` supplies the `DIN` bytes its commands name (R572): while a command awaits bytes, another push comes. -/
def HostSupplies (turns : Nat → Turn) (r : Nat → State) : Prop :=
  ∀ n, (r n).AwaitsDin → ∃ k b, n ≤ k ∧ (turns k).move = .hostPush b

/-- The command port still has to execute a command that takes bytes from `DIN`, at least one and no more than it can
hold. -/
def State.WillTakeBytes (s : State) : Prop :=
  ∃ w ∈ (if s.cmdData.isSome then s.cmdPort.tail else s.cmdPort), ∃ i n, decode w = .instr i ∧ dinCount i = some n
    ∧ 0 < n ∧ n ≤ s.params.dinDepth

/-- However far the run has gone, it comes to a state with `P`: a hold that waits for `P` is lifted. -/
def Recurs (r : Nat → State) (P : State → Prop) : Prop := ∀ n, ∃ k, n ≤ k ∧ P (r k)

/-! ### The records of a session -/

/-- The duty values of RAMPING_UP for a target `T` (R354). -/
def rampUpValues (T : Int) : List Int := (List.range T.natAbs).map (fun k => T.sign * (k + 1)) ++ [T]

/-- The duty values of RAMPING_DOWN for a target `T` (R356): from one below the target down to one. -/
def rampDownValues (T : Int) : List Int :=
  (List.range (T.natAbs - 1)).map fun k => T.sign * ((T.natAbs : Int) - 1 - k)

/-- The channel operations of the stop procedure in order (R378): a frame, or the flush. -/
def State.stopOps (s : State) : List (Option (List Byte)) :=
  List.replicate s.params.stopBurstN (some (s.dutyFrame 0))
    ++ [some s.currentZeroFrame]
    ++ List.replicate s.params.stopSustainN (some (s.dutyFrame 0))
    ++ [none]
    ++ (if s.params.stopReconfirm then [some s.currentZeroFrame] else [])

/-- The `WIRE` record of one channel operation of the stop procedure under the channel's choice `d`. -/
def stopRecord (op : Option (List Byte)) (d : ChanDraw) : WireRecord :=
  match op with
  | some f => .write f (outcomeOf d.write)
  | none => .flush

/-- R377's bound on the `SEQ` steps of one session. -/
def State.sessionBound (s : State) : Nat :=
  (s.targetMag + 1) + 1 + (s.targetMag - 1) + s.params.stopBurstN + 1 + s.params.stopSustainN + 1 + 1

/-- `clamp(t, -m, m)` written as cases (00_scope.md R12). -/
def saturate (m : Nat) (t : Int) : Int := if t < -(m : Int) then -(m : Int) else if (m : Int) < t then m else t

/-- A session that starts now pauses the poller (43_duty_sequencer.md R352). -/
def State.pausesPoller (s : State) : Prop := s.params.pausePollerInSession = true ∧ s.poll.state = .running

/-- The null results among decoded payloads, as the events the poller raises for them (44_poller.md R440). -/
def nullEvents (ps : List (List Byte)) : List OutRecord :=
  ps.filterMap fun p => match decodeGv p with
    | .sample _ => none
    | .null q reason => some (.event (.decodeNull q reason))

/-- The samples among decoded payloads, as the records the poller logs for them at time `t` (R440). -/
def sampleRecords (t : Word) (ps : List (List Byte)) : List LogRecord :=
  ps.filterMap fun p => match decodeGv p with
    | .sample f => some (.sample t f)
    | .null _ _ => none

/-- The offset of a frame-error event of `extract` (41_framer.md R250). -/
def frameErrorOffset : Event → Option Nat
  | .crcErr k | .termErr k => some k
  | .illegalCmd _ | .ownErr _ | .decodeNull _ _ | .ioErrWrite _ | .ioErrRead _ | .triggerReject _ | .rxOvf _
  | .rxClr _ | .sessionAbort _ => none

/-- How many events of a list are `CRC_ERR`. -/
def crcErrCount (es : List Event) : Nat := es.countP fun e => e.code = 3

/-- How many events of a list are `TERM_ERR`. -/
def termErrCount (es : List Event) : Nat := es.countP fun e => e.code = 4

/-- The sticky bits after the events of a list (R500). -/
def stickyAfter (st : BitVec 11) (es : List Event) : BitVec 11 := es.foldl (fun k e => k ||| e.stickyBit) st

/-- A short frame of payload `p` with any CRC bytes `c` and any end byte `e` (30_encoding.md R150). -/
def shortFrameWith (p : List Byte) (c : Half) (e : Byte) : List Byte :=
  [0x02, BitVec.ofNat 8 p.length] ++ p ++ bytesBe16 c ++ [e]

/-! ### The CRC, bit by bit -/

/-- One bit of an MSB-first CRC with polynomial 0x1021 (40_crc.md R205). -/
def serialBit (crc : Half) : Half := if crc.msb then (crc <<< 1) ^^^ 0x1021 else crc <<< 1

/-- `n` bits. -/
def serialBits : Nat → Half → Half
  | 0, crc => crc
  | n + 1, crc => serialBits n (serialBit crc)

/-- One byte, its most significant bit first, added at the top of the register. -/
def serialByte (crc : Half) (b : Byte) : Half := serialBits 8 (crc ^^^ (b.setWidth 16 <<< 8))

/-- The bit-serial CRC: initial value 0, no reflection, no final XOR (R205). -/
def crcSerial (data : List Byte) : Half := data.foldl serialByte 0

/-! ### Telemetry, packed -/

/-- A 16-bit signed field, big-endian (20_memory.md R103). -/
def packI16 (v : Int) : List Byte := bytesBe16 (BitVec.ofInt 16 v)

/-- A 32-bit signed field, big-endian (R103). -/
def packI32 (v : Int) : List Byte := bytesBe32 (BitVec.ofInt 32 v)

/-- The 52-byte body of R303, field by field in its order and widths. -/
def packTelemetry (f : Telemetry) : List Byte :=
  packI16 f.tempFet ++ packI16 f.tempMotor ++ packI32 f.currentMotor ++ packI32 f.currentIn ++ packI32 f.id
    ++ packI32 f.iq ++ packI16 f.duty ++ packI32 f.rpm ++ packI16 f.vIn ++ packI32 f.ampHours
    ++ packI32 f.ampHoursCharged ++ packI32 f.wattHours ++ packI32 f.wattHoursCharged ++ packI32 f.tachometer
    ++ packI32 f.tachometerAbs

/-- A value of an i16 field (R304). -/
abbrev IsI16 (v : Int) : Prop := -32768 ≤ v ∧ v ≤ 32767

/-- A value of an i32 field (R304). -/
abbrev IsI32 (v : Int) : Prop := -2147483648 ≤ v ∧ v ≤ 2147483647

/-- Every field of the record in the range of its width (R303, R304). -/
def Telemetry.InRange (f : Telemetry) : Prop :=
  IsI16 f.tempFet ∧ IsI16 f.tempMotor ∧ IsI32 f.currentMotor ∧ IsI32 f.currentIn ∧ IsI32 f.id ∧ IsI32 f.iq
  ∧ IsI16 f.duty ∧ IsI32 f.rpm ∧ IsI16 f.vIn ∧ IsI32 f.ampHours ∧ IsI32 f.ampHoursCharged ∧ IsI32 f.wattHours
  ∧ IsI32 f.wattHoursCharged ∧ IsI32 f.tachometer ∧ IsI32 f.tachometerAbs

end Sys2Proof.Machine
end

