-- ==== Sys2Proof/Certificates/Slice0/Obligations.lean ====
section
/-! DEFINITION. The statements for the provers. Each docstring names the rule of spec/ it formalises. The claims hold for
every parameter record the state may carry (00_scope.md R9) or for every valid one, for every channel choice and for every
schedule. -/

open Sys2Proof Sys2Proof.Machine

/-! ### Encoding -/

/-- R140, R141, R143, R160: decoding the word of a well-formed command gives the command back, with every operand. -/
def Obligations.DecodeInvertsEncode : Prop :=
  ∀ i : Instr, i.WellFormed → decode (encode i) = .instr i

/-- R140 to R143: a decoded command is well formed, its word has the same `OP` and the same used fields, and its
unused fields assemble as 0 (R160); and the bits of the unused fields never change what a word decodes to (R142). -/
def Obligations.DecodeReadsExactlyTheUsedFields : Prop :=
  (∀ (w : Word) (i : Instr), decode w = .instr i →
    i.WellFormed
    ∧ opField (encode i) = opField w
    ∧ aField (encode i) = (if usesA i then aField w else 0)
    ∧ bField (encode i) = (if usesB i then bField w else 0))
  ∧ (∀ (w w' : Word) (i : Instr), decode w = .instr i → opField w' = opField w →
    (usesA i = true → aField w' = aField w) → (usesB i = true → bField w' = bField w) →
    decode w' = .instr i)

/-- R144, R145: the words the decoder rejects are exactly those whose `OP` R144 lists, each rejected by its opcode. The
spec marks R145 as derived from R140 and R144. -/
def Obligations.ReservedOpcodesAreExactlyTheListedOnes : Prop :=
  ∀ w : Word,
    (reservedOpcode (opField w).toNat → decode w = .reserved (opField w))
    ∧ (¬ reservedOpcode (opField w).toNat → ∃ i, decode w = .instr i)

/-- R162: the encoding examples, both ways. The spec marks R162 as derived from R140 and R143. -/
def Obligations.EncodingExamples : Prop :=
  (decode 0x02310000 = .instr (.crcUpdate 0x31) ∧ encode (.crcUpdate 0x31) = 0x02310000)
  ∧ (decode 0x04FF0000 = .instr (.tblRead 255) ∧ encode (.tblRead 255) = 0x04FF0000)
  ∧ (decode 0x10000005 = .instr (.txFrame 5) ∧ encode (.txFrame 5) = 0x10000005)
  ∧ (decode 0x3000FFF6 = .instr (.setDuty (-10)) ∧ encode (.setDuty (-10)) = 0x3000FFF6)
  ∧ (decode 0x30000096 = .instr (.setDuty 150) ∧ encode (.setDuty 150) = 0x30000096)
  ∧ (decode 0x3000FF6A = .instr (.setDuty (-150)) ∧ encode (.setDuty (-150)) = 0x3000FF6A)
  ∧ (decode 0x310A03E8 = .instr (.rampAndHold 10 1000) ∧ encode (.rampAndHold 10 1000) = 0x310A03E8)
  ∧ (decode 0x32FB01F4 = .instr (.trigger (-5) 500) ∧ encode (.trigger (-5) 500) = 0x32FB01F4)
  ∧ (decode 0x41001388 = .instr (.pollStartTemp 5000) ∧ encode (.pollStartTemp 5000) = 0x41001388)
  ∧ (decode 0x50010000 = .instr (.statRead 1) ∧ encode (.statRead 1) = 0x50010000)

/-! ### The step and the command port -/

/-- R146: with `CMD` to move, the step runs the decoded word at `CMD_IDX`, after taking the turn from the schedule. R40: a
step is the step of the agent whose turn it is; `SEQ` and `POLL` take the step their rules enable, and none where none is
enabled (R514); `CMD` with no word presented has none; a word `HOST` presents is last at the port. That the schedule stands in
the state, and that an agent without a step leaves the block as it is, are the model's choices, log entries 1 and 5; that the
words queue at the port is too, log entry 9. -/
def Obligations.StepRunsTheDecodedCommand : Prop :=
  (∀ (s : State) (w : Word) (ws : List Word) (d : ChanDraw) (ts : List Turn) (i : Instr),
    s.cmdPort = w :: ws → s.schedule = { move := .cmd, draw := d } :: ts → decode w = .instr i →
    step s = exec i { s with schedule := ts, draw := d })
  ∧ (∀ (s : State) (m : Move) (d : ChanDraw) (ts : List Turn), s.schedule = { move := m, draw := d } :: ts →
      step s = runMove m { s with schedule := ts, draw := d })
  ∧ (∀ s t : State, (s.seqMove = some t → runMove .seq s = .next t) ∧ (s.seqMove = none → runMove .seq s = .next s))
  ∧ (∀ s t : State, (s.pollMove = some t → runMove .poll s = .next t) ∧ (s.pollMove = none → runMove .poll s = .next s))
  ∧ (∀ s : State, s.cmdPort = [] → runMove .cmd s = .next s)
  ∧ (∀ (s : State) (w : Word), runMove (.hostPresent w) s = .next { s with cmdPort := s.cmdPort ++ [w] })

/-- R484: a reserved opcode raises `ILLEGAL_CMD` with the whole word and retires; no `DIN` byte is taken. -/
def Obligations.ReservedWordRaisesIllegalCmd : Prop :=
  ∀ (s : State) (w : Word) (ws : List Word) (d : ChanDraw) (ts : List Turn),
    s.cmdPort = w :: ws → s.schedule = { move := .cmd, draw := d } :: ts → reservedOpcode (opField w).toNat →
    step s = .next { s with
      schedule := ts
      draw := d
      sticky := s.sticky ||| 0x001
      out := s.out ++ [.event (.illegalCmd w)]
      cmdIdx := s.cmdIdx + 1
      cmdPort := ws
      cmdData := none }

/-- R501, R502: every step of every agent answers a next state. -/
def Obligations.NoStepHalts : Prop :=
  ∀ s : State, ∃ t, step s = .next t

/-- R42, R146: a command retires, with `CMD_IDX` up by one and the next word at the port; or it holds and nothing
changes; or it is a TX_FRAME that takes its payload from `DIN` and goes on holding (R15, R260). TX_FRAME's two steps
are the model's reading, log entry 6. -/
def Obligations.CommandRetiresOnceOrHolds : Prop :=
  ∀ (i : Instr) (s t : State), exec i s = .next t →
    (t.cmdIdx = s.cmdIdx + 1 ∧ t.cmdPort = s.cmdPort.tail ∧ t.cmdData = none)
    ∨ t = s
    ∨ ∃ n, i = .txFrame n ∧ s.cmdData = none ∧ n ≤ s.params.dinDepth ∧ n ≤ s.din.length
        ∧ t = { s with din := s.din.drop n, cmdData := some (s.din.take n) }

/-- R148, R210: a command marked "Table" holds before anything else while `TBL_READY = 0`, which a ROM never is. R342:
SET_DUTY, RAMP_AND_HOLD, HARD_STOP and TX_FRAME (its payload taken) hold unless `SEQ_STATE = IDLE` and `CANCEL = 0`.
That TX_FRAME has a state with its payload taken is the model's reading, log entry 6. -/
def Obligations.CommandsHoldForTheTableAndTheLock : Prop :=
  ((∀ (i : Instr) (s : State), needsTable i = true → s.crc.tblReady = false → exec i s = .next s)
  ∧ (∀ (p : Config.Params) (ch : Channel) (d : ChanDraw) (ts : List Turn) (k : Nat), p.tableImpl = .rom →
      (State.resetWith p ch d ts k).crc.tblReady = true))
  ∧ (∀ (s : State), (s.seq.state ≠ .idle ∨ s.seq.cancel = true) →
    (∀ x, exec (.setDuty x) s = .next s)
    ∧ (∀ t h, exec (.rampAndHold t h) s = .next s)
    ∧ exec .hardStop s = .next s
    ∧ (∀ n p, s.cmdData = some p → exec (.txFrame n) s = .next s))

/-- R147: a command that takes `DIN` bytes is refused with `ILLEGAL_CMD` above `DIN_DEPTH`, with no byte taken, and holds
while `DIN` is too short. R56: `HOST` pushes at the tail of `DIN`, and a push into a full `DIN` holds. -/
def Obligations.DinIsPushedCheckedAndAwaited : Prop :=
  (∀ (i : Instr) (n : Nat) (s : State), dinCount i = some n → s.cmdData = none →
    (needsTable i = true → s.crc.tblReady = true) →
    (s.params.dinDepth < n → exec i s = .next { s with
        sticky := s.sticky ||| 0x001
        out := s.out ++ [.event (.illegalCmd s.cmdWord)]
        cmdIdx := s.cmdIdx + 1
        cmdPort := s.cmdPort.tail
        cmdData := none })
    ∧ (n ≤ s.params.dinDepth → s.din.length < n → exec i s = .next s))
  ∧ (∀ (s : State) (b : Byte),
    (s.din.length < s.params.dinDepth → runMove (.hostPush b) s = .next { s with din := s.din ++ [b] })
    ∧ (s.params.dinDepth ≤ s.din.length → runMove (.hostPush b) s = .next s))

/-! ### CRC unit -/

/-- R211, R213, R482, R483: CRC_INIT, CRC_READ, STATUS_CLEAR and NOP, in every state. -/
def Obligations.PlainCommandsRunAtOnce : Prop :=
  (∀ s : State,
    exec .crcInit s = .next { s with
      crc.crcAcc := 0x0000
      cmdIdx := s.cmdIdx + 1
      cmdPort := s.cmdPort.tail
      cmdData := none }
    ∧ exec .crcRead s = .next { s with
      out := s.out ++ [.result (s.crc.crcAcc.setWidth 32)]
      cmdIdx := s.cmdIdx + 1
      cmdPort := s.cmdPort.tail
      cmdData := none })
  ∧ (∀ s : State,
    exec .statusClear s = .next { s with
      sticky := 0
      cmdIdx := s.cmdIdx + 1
      cmdPort := s.cmdPort.tail
      cmdData := none }
    ∧ exec .nop s = .next { s with cmdIdx := s.cmdIdx + 1, cmdPort := s.cmdPort.tail, cmdData := none })

/-- R212 with `crc_step` of R203: the new `CRC_ACC` of CRC_UPDATE, and its hold. -/
def Obligations.CrcUpdateStepsTheAccumulator : Prop :=
  ∀ (b : Byte) (s : State),
    (s.crc.tblReady = true → exec (.crcUpdate b) s = .next { s with
      crc.crcAcc :=
        (s.crc.crcAcc <<< 8) ^^^ tblAt s.crc.tbl (((s.crc.crcAcc >>> 8) ^^^ b.setWidth 16) &&& 0x00FF).toNat
      cmdIdx := s.cmdIdx + 1
      cmdPort := s.cmdPort.tail
      cmdData := none })
    ∧ (s.crc.tblReady = false → exec (.crcUpdate b) s = .next s)

/-- R214: TBL_READ emits the entry; under the invariant it is `table_entry(i)` of R200. -/
def Obligations.TblReadEmitsTheEntry : Prop :=
  ∀ (i : Nat) (s : State), s.crc.tblReady = true →
    exec (.tblRead i) s = .next { s with
      out := s.out ++ [.result ((tblAt s.crc.tbl i).setWidth 32)]
      cmdIdx := s.cmdIdx + 1
      cmdPort := s.cmdPort.tail
      cmdData := none }
    ∧ (i < 256 → s.crc.Inv → tblAt s.crc.tbl i = tableEntry i)

/-- R215: CRC_BLOCK over the bytes at the head of `DIN` has the same effect on `CRC_ACC` as one CRC_UPDATE for each of
them, and otherwise takes the bytes and retires. -/
def Obligations.CrcBlockEqualsTheUpdates : Prop :=
  ∀ (data rest : List Byte) (s : State), s.crc.tblReady = true → s.din = data ++ rest →
    data.length ≤ s.params.dinDepth →
    ∃ t u, exec (.crcBlock data.length) s = .next t
      ∧ execAll (data.map .crcUpdate) s = .next u
      ∧ t = { s with
          crc.crcAcc := u.crc.crcAcc
          din := rest
          cmdIdx := s.cmdIdx + 1
          cmdPort := s.cmdPort.tail
          cmdData := none }

/-- R201: from its reset state the generator completes the table in exactly 2048 steps, whatever the table held before; and
`GEN` takes such a step exactly while `TBL_READY = 0` in a block whose table is generated. The spec marks R552 as derived from
R201 and R143; that a ROM block has no `GEN` step is the model's reading of R40, log entry 12. -/
def Obligations.GeneratorTakesExactly2048Steps : Prop :=
  (∀ c : CrcUnit, c.tbl.length = 256 → c.tblReady = false →
    c.genI = 0 → c.genJ = 0 → c.genCrc = 0 → c.genC = 0 →
    (∀ k, k < 2048 → (genRun k c).tblReady = false)
    ∧ (genRun 2048 c).tblReady = true
    ∧ (genRun 2048 c).tbl = romTable
    ∧ (genRun 2048 c).genI = 256 ∧ (genRun 2048 c).genJ = 8
    ∧ (genRun 2048 c).crcAcc = c.crcAcc)
  ∧ (∀ s : State,
    (s.params.tableImpl = .generator → s.crc.tblReady = false →
      runMove .gen s = .next { s with crc := genRun 1 s.crc })
    ∧ ((s.params.tableImpl = .rom ∨ s.crc.tblReady = true) → runMove .gen s = .next s))

/-- R205: the table-driven CRC is the bit-serial, MSB-first CRC with polynomial 0x1021, initial value 0, no reflection
and no final XOR. The spec marks R205 as derived from R200 and R203. -/
def Obligations.TableCrcIsTheBitSerialCrc : Prop :=
  ∀ data : List Byte, crc16 romTable data = crcSerial data

/-- R205: leading zeros, residue and linearity of `crc16`. The spec marks R205 as derived from R200 and R203. -/
def Obligations.CrcResidueZerosAndLinearity : Prop :=
  (∀ p, crc16 romTable (0x00 :: p) = crc16 romTable p)
  ∧ (∀ n, crc16 romTable (List.replicate n 0x00) = 0x0000)
  ∧ (∀ p, crc16 romTable (p ++ bytesBe16 (crc16 romTable p)) = 0x0000)
  ∧ (∀ a b : List Byte, a.length = b.length →
      crc16 romTable (List.zipWith (· ^^^ ·) a b) = crc16 romTable a ^^^ crc16 romTable b)

/-- R53, R50, R101: outside a reset, `CRC_ACC` changes only in a step that executes CRC_INIT, CRC_UPDATE or CRC_BLOCK, and
a table that is ready stays ready and keeps its content. -/
def Obligations.CrcStateHasNoOtherWriter : Prop :=
  ∀ s t : State, step s = .next t → s.nextTurn.move ≠ .hostReset →
    (s.crc.tblReady = true → t.crc.tblReady = true ∧ t.crc.tbl = s.crc.tbl)
    ∧ (t.crc.crcAcc ≠ s.crc.crcAcc → s.nextTurn.move = .cmd ∧ ∃ w ws, s.cmdPort = w :: ws
        ∧ (decode w = .instr .crcInit ∨ (∃ b, decode w = .instr (.crcUpdate b)) ∨ ∃ n, decode w = .instr (.crcBlock n)))

/-! ### Framer and synchronizer -/

/-- R240, R150, R151: the layout of a short and of a long frame, for every table. -/
def Obligations.FrameLayout : Prop :=
  ∀ (tbl : List Half) (p : List Byte),
    (p.length ≤ 255 →
      encodeFrame tbl p = [0x02, BitVec.ofNat 8 p.length] ++ p
        ++ [(crc16 tbl p).extractLsb' 8 8, (crc16 tbl p).extractLsb' 0 8] ++ [0x03]
      ∧ (encodeFrame tbl p).length = 5 + p.length)
    ∧ (256 ≤ p.length → p.length ≤ 65535 →
      encodeFrame tbl p = [0x03, BitVec.ofNat 8 (p.length / 256), BitVec.ofNat 8 (p.length % 256)] ++ p
        ++ [(crc16 tbl p).extractLsb' 8 8, (crc16 tbl p).extractLsb' 0 8] ++ [0x03]
      ∧ (encodeFrame tbl p).length = 6 + p.length)

/-- R266: the round trip, for every payload a short frame carries. The spec marks R266 as derived from R240 and R250.
-/
def Obligations.ExtractInvertsEncode : Prop :=
  ∀ (tbl : List Half) (p : List Byte), p.length ≤ 255 →
    extract tbl (encodeFrame tbl p) = { out := [p], ev := [], rem := [] }

/-- R267: a frame in two reads is found once, when both are there, by `extract` and by the accumulator procedures. The
spec marks R267 as derived from R250 and R261. -/
def Obligations.FragmentedFrameIsFoundOnce : Prop :=
  ∀ (tbl : List Half) (p u v : List Byte), p.length ≤ 255 → encodeFrame tbl p = u ++ v → u ≠ [] → v ≠ [] →
    extract tbl u = { out := [], ev := [], rem := u }
    ∧ extract tbl (u ++ v) = { out := [p], ev := [], rem := [] }
    ∧ ∀ s : State, s.params.Valid → s.crc.tbl = tbl → s.acc = [] →
        (s.accPush u).scanOut = []
        ∧ ((s.accPush u).accScan.accPush v).scanOut = [p]
        ∧ ((s.accPush u).accScan.accPush v).accScan.acc = []

/-- R255, R256: where the scan stands at a complete frame whose CRC bytes do not match, or whose end byte is not `0x03`, at
any offset and whatever follows, it reports the frame at that offset, finds no payload there and goes on one byte further.
R269 (the part that holds in every case): with no `0x02` before it, that report is the first event. The spec marks R269 as
derived from R250. -/
def Obligations.CorruptFramesAreReportedAndSkipped : Prop :=
  (∀ (tbl : List Half) (pre p g : List Byte) (c : Half), p.length ≤ 255 → c ≠ crc16 tbl p →
    let buf := pre ++ shortFrameWith p c 0x03 ++ g
    let k := pre.length
    (∀ (fuel last : Nat) (out : List (List Byte)) (ev : List Event),
      extractLoop tbl buf (fuel + 1) k last out ev = extractLoop tbl buf fuel (k + 1) last out (ev ++ [.crcErr k]))
    ∧ ((∀ b ∈ pre, b ≠ 0x02) →
        (extract tbl buf).ev.head? = some (.crcErr k)
        ∧ extract tbl buf = extractLoop tbl buf (buf.length - k - 1) (k + 1) 0 [] [.crcErr k]))
  ∧ (∀ (tbl : List Half) (pre p g : List Byte) (c : Half) (e : Byte), p.length ≤ 255 → e ≠ 0x03 →
    let buf := pre ++ shortFrameWith p c e ++ g
    let k := pre.length
    (∀ (fuel last : Nat) (out : List (List Byte)) (ev : List Event),
      extractLoop tbl buf (fuel + 1) k last out ev = extractLoop tbl buf fuel (k + 1) last out (ev ++ [.termErr k]))
    ∧ ((∀ b ∈ pre, b ≠ 0x02) →
        (extract tbl buf).ev.head? = some (.termErr k)
        ∧ extract tbl buf = extractLoop tbl buf (buf.length - k - 1) (k + 1) 0 [] [.termErr k]))

/-- R270, R251, R257, R258: a sequence without the byte `0x02`, such as a long frame that holds none, yields no payload
and no event, and stays as the remainder. The spec marks R270 as derived from R250. -/
def Obligations.BytesWithoutStartAreKeptAndNotFound : Prop :=
  ∀ (tbl : List Half) (buf : List Byte), (∀ b ∈ buf, b ≠ 0x02) →
    extract tbl buf = { out := [], ev := [], rem := buf }

/-- R250, R271, R504, R253: what `extract` keeps is a tail of the buffer; its events are frame errors in increasing
offset order; the bytes of the payloads found, with 5 for each frame, fit in the buffer; and after a scan the
accumulator is not longer than the threshold (R261). The spec marks R253, R271 and R504 as derived. -/
def Obligations.ExtractKeepsATailAndOrdersItsEvents : Prop :=
  (∀ (tbl : List Half) (buf : List Byte),
    (extract tbl buf).rem <:+ buf
    ∧ (∀ e ∈ (extract tbl buf).ev, ∃ k, frameErrorOffset e = some k ∧ k < buf.length)
    ∧ ((extract tbl buf).ev.filterMap frameErrorOffset).Pairwise (· < ·)
    ∧ ((extract tbl buf).out.map (fun p => p.length + 5)).sum + (extract tbl buf).rem.length ≤ buf.length)
  ∧ ∀ s : State, s.accScan.acc.length ≤ s.params.rxClearThreshold

/-- R260: TX_FRAME takes its payload, then writes the frame with the session lock free. The two steps are the model's
reading of R15, log entry 6; so is the field that holds the payload. -/
def Obligations.TxFrameTakesThenWrites : Prop :=
  ∀ (n : Nat) (s : State), s.crc.tblReady = true →
    (s.cmdData = none → n ≤ s.params.dinDepth → n ≤ s.din.length →
      exec (.txFrame n) s = .next { s with din := s.din.drop n, cmdData := some (s.din.take n) })
    ∧ ∀ p, s.cmdData = some p → s.seq.state = .idle → s.seq.cancel = false →
      (s.draw.write = .ok → exec (.txFrame n) s = .next { s with
        wire := s.wire ++ [.write (encodeFrame s.crc.tbl p) .ok]
        chan.tx := s.chan.tx ++ encodeFrame s.crc.tbl p
        counters.txFrame := s.counters.txFrame + 1
        cmdIdx := s.cmdIdx + 1
        cmdPort := s.cmdPort.tail
        cmdData := none })
      ∧ (∀ k, s.draw.write = .err k → exec (.txFrame n) s = .next { s with
        wire := s.wire ++ [.write (encodeFrame s.crc.tbl p) .err]
        chan.tx := s.chan.tx ++ (encodeFrame s.crc.tbl p).take k
        sticky := s.sticky ||| 0x020
        counters.ioErr := s.counters.ioErr + 1
        out := s.out ++ [.event (.ioErrWrite .cmd)]
        cmdIdx := s.cmdIdx + 1
        cmdPort := s.cmdPort.tail
        cmdData := none })

/-- R262, R261 (`acc_push`): SYNC_APPEND with its bytes in `DIN`: accepted whole, accepted up to `RX_CAP` with the rest
dropped and `RX_OVF` raised, or refused with `OWN_ERR`; the bytes are taken in every case. R264: SYNC_CLEAR, accepted and
refused. -/
def Obligations.SyncAppendAndSyncClear : Prop :=
  (∀ (n : Nat) (s : State), n ≤ s.params.dinDepth → n ≤ s.din.length →
    (s.poll.state ≠ .stopped → exec (.syncAppend n) s = .next { s with
      din := s.din.drop n
      sticky := s.sticky ||| 0x002
      out := s.out ++ [.event (.ownErr s.cmdWord)]
      cmdIdx := s.cmdIdx + 1
      cmdPort := s.cmdPort.tail
      cmdData := none })
    ∧ (s.poll.state = .stopped → s.acc.length + n ≤ s.params.rxCap → exec (.syncAppend n) s = .next { s with
      din := s.din.drop n
      acc := s.acc ++ s.din.take n
      cmdIdx := s.cmdIdx + 1
      cmdPort := s.cmdPort.tail
      cmdData := none })
    ∧ (s.poll.state = .stopped → s.acc.length ≤ s.params.rxCap → s.params.rxCap < s.acc.length + n →
      exec (.syncAppend n) s = .next { s with
      din := s.din.drop n
      acc := s.acc ++ s.din.take (s.params.rxCap - s.acc.length)
      sticky := s.sticky ||| 0x100
      counters.rxOvf := s.counters.rxOvf + 1
      out := s.out ++ [.event (.rxOvf (s.acc.length + n - s.params.rxCap))]
      cmdIdx := s.cmdIdx + 1
      cmdPort := s.cmdPort.tail
      cmdData := none }))
  ∧ (∀ s : State,
    (s.poll.state = .stopped → exec .syncClear s = .next { s with
      acc := []
      cmdIdx := s.cmdIdx + 1
      cmdPort := s.cmdPort.tail
      cmdData := none })
    ∧ (s.poll.state ≠ .stopped → exec .syncClear s = .next { s with
      sticky := s.sticky ||| 0x002
      out := s.out ++ [.event (.ownErr s.cmdWord)]
      cmdIdx := s.cmdIdx + 1
      cmdPort := s.cmdPort.tail
      cmdData := none }))

/-- R263 with `acc_scan` of R261: SYNC_EXTRACT's records in order, its counters and sticky bits, what `ACC` keeps; and the
refusal. Nothing else changes. -/
def Obligations.SyncExtractEmitsEventsPayloadsAndCount : Prop :=
  ∀ s : State, s.crc.tblReady = true →
    (s.poll.state ≠ .stopped → exec .syncExtract s = .next { s with
      sticky := s.sticky ||| 0x002
      out := s.out ++ [.event (.ownErr s.cmdWord)]
      cmdIdx := s.cmdIdx + 1
      cmdPort := s.cmdPort.tail
      cmdData := none })
    ∧ (s.poll.state = .stopped →
      let r := extract s.crc.tbl s.acc
      let clears := s.params.rxClearThreshold < r.rem.length
      exec .syncExtract s = .next { s with
        acc := if clears then [] else r.rem
        sticky := if clears then stickyAfter s.sticky r.ev ||| 0x200 else stickyAfter s.sticky r.ev
        counters := { s.counters with
          crcErr := s.counters.crcErr + BitVec.ofNat 16 (crcErrCount r.ev)
          termErr := s.counters.termErr + BitVec.ofNat 16 (termErrCount r.ev)
          frame := s.counters.frame + BitVec.ofNat 16 r.out.length
          rxClr := if clears then s.counters.rxClr + 1 else s.counters.rxClr }
        out := s.out ++ r.ev.map .event ++ (if clears then [.event (.rxClr r.rem.length)] else [])
          ++ r.out.map .payload ++ [.result (BitVec.ofNat 32 r.out.length)]
        cmdIdx := s.cmdIdx + 1
        cmdPort := s.cmdPort.tail
        cmdData := none })

/-! ### Telemetry -/

/-- R301, R302, R307: the echo strip and the two length gates; a null carries the whole unstripped payload. R310: DECODE_GV
takes its bytes and emits one record; no sticky bit and no counter changes. -/
def Obligations.DecodeGvGatesAndCommand : Prop :=
  (∀ p q : List Byte, (p = 0x04 :: q ∨ (p.head? ≠ some 0x04 ∧ q = p)) →
    (q.length < 46 → decodeGv p = .null p .short)
    ∧ (46 ≤ q.length → q.length < 52 → decodeGv p = .null p .unpack)
    ∧ (52 ≤ q.length → ∃ f, decodeGv p = .sample f))
  ∧ (∀ (n : Nat) (s : State), n ≤ s.params.dinDepth → n ≤ s.din.length →
    ∃ r, exec (.decodeGv n) s = .next { s with
        din := s.din.drop n
        out := s.out ++ [r]
        cmdIdx := s.cmdIdx + 1
        cmdPort := s.cmdPort.tail
        cmdData := none }
      ∧ (∀ f, decodeGv (s.din.take n) = .sample f → r = .decoded f)
      ∧ (∀ p reason, decodeGv (s.din.take n) = .null p reason → r = .decodeNull p reason))

/-- R303, R306, R301: fields packed in R303's layout decode to themselves, with the echo byte, and without it when the
body's first byte is not the echo byte; trailing bytes are ignored. The spec marks R306 and R303's offsets as derived.
-/
def Obligations.PackedTelemetryDecodes : Prop :=
  ∀ (f : Telemetry) (trailing : List Byte), f.InRange →
    decodeGv (0x04 :: (packTelemetry f ++ trailing)) = .sample f
    ∧ ((packTelemetry f).head? ≠ some 0x04 → decodeGv (packTelemetry f ++ trailing) = .sample f)

/-! ### Sequencer -/

/-- R345, R346, R343: SET_DUTY clamps to ±100, writes the frame of duty × 1000 and sets `DUTY` and `CTRL_MODE` at the
attempt; a failed write only raises `IO_ERR_WRITE`. -/
def Obligations.SetDutyWritesTheClampedDuty : Prop :=
  ∀ (x : Int) (s : State), s.crc.tblReady = true → s.seq.state = .idle → s.seq.cancel = false →
    let d := saturate 100 x
    let f := encodeFrame s.crc.tbl (s.params.cmdSetDuty :: bytesBe32 (BitVec.ofInt 32 (d * 1000)))
    (s.draw.write = .ok → exec (.setDuty x) s = .next { s with
      seq := { s.seq with duty := BitVec.ofInt 8 d, ctrlMode := .duty }
      wire := s.wire ++ [.write f .ok]
      chan.tx := s.chan.tx ++ f
      counters.txFrame := s.counters.txFrame + 1
      cmdIdx := s.cmdIdx + 1
      cmdPort := s.cmdPort.tail
      cmdData := none })
    ∧ (∀ k, s.draw.write = .err k → exec (.setDuty x) s = .next { s with
      seq := { s.seq with duty := BitVec.ofInt 8 d, ctrlMode := .duty }
      wire := s.wire ++ [.write f .err]
      chan.tx := s.chan.tx ++ f.take k
      sticky := s.sticky ||| 0x020
      counters.ioErr := s.counters.ioErr + 1
      out := s.out ++ [.event (.ioErrWrite .cmd)]
      cmdIdx := s.cmdIdx + 1
      cmdPort := s.cmdPort.tail
      cmdData := none })

/-- R350, R351, R352: RAMP_AND_HOLD with the lock free starts a session, pausing a running poller when the parameter says
so, and retires. -/
def Obligations.RampAndHoldStartsASession : Prop :=
  ∀ (x : Int) (h : Nat) (s : State), s.crc.tblReady = true → s.seq.state = .idle → s.seq.cancel = false →
    (¬ s.pausesPoller → exec (.rampAndHold x h) s = .next { s with
      seq := { s.seq with
        state := .rampingUp, target := BitVec.ofInt 8 (saturate s.params.maxDuty x), hold := BitVec.ofNat 16 h,
        rampK := 1, wait := 0, sessionKind := .ramp }
      cmdIdx := s.cmdIdx + 1
      cmdPort := s.cmdPort.tail
      cmdData := none })
    ∧ (s.pausesPoller → exec (.rampAndHold x h) s = .next { s with
      seq := { s.seq with
        state := .rampingUp, target := BitVec.ofInt 8 (saturate s.params.maxDuty x), hold := BitVec.ofNat 16 h,
        rampK := 1, wait := 0, sessionKind := .ramp, autoPaused := true }
      poll := { s.poll with state := .paused, phase := .tick }
      cmdIdx := s.cmdIdx + 1
      cmdPort := s.cmdPort.tail
      cmdData := none })

/-- R390: TRIGGER is accepted exactly when the gate is idle, no session runs and no emergency stop is pending; otherwise it
raises `TRIGGER_REJECT` and changes nothing else. -/
def Obligations.TriggerIsAcceptedOrRejectedAtOnce : Prop :=
  ∀ (x : Int) (h : Nat) (s : State), s.crc.tblReady = true →
    (s.gate.state = .idle → s.seq.state = .idle → s.seq.cancel = false → ¬ s.pausesPoller →
      exec (.trigger x h) s = .next { s with
      gate := { s.gate with state := .busy }
      seq := { s.seq with
        state := .rampingUp, target := BitVec.ofInt 8 (saturate s.params.maxDuty x), hold := BitVec.ofNat 16 h,
        rampK := 1, wait := 0, sessionKind := .gated, sessionGated := true }
      cmdIdx := s.cmdIdx + 1
      cmdPort := s.cmdPort.tail
      cmdData := none })
    ∧ (s.gate.state = .idle → s.seq.state = .idle → s.seq.cancel = false → s.pausesPoller →
      exec (.trigger x h) s = .next { s with
      gate := { s.gate with state := .busy }
      seq := { s.seq with
        state := .rampingUp, target := BitVec.ofInt 8 (saturate s.params.maxDuty x), hold := BitVec.ofNat 16 h,
        rampK := 1, wait := 0, sessionKind := .gated, sessionGated := true, autoPaused := true }
      poll := { s.poll with state := .paused, phase := .tick }
      cmdIdx := s.cmdIdx + 1
      cmdPort := s.cmdPort.tail
      cmdData := none })
    ∧ ((s.gate.state ≠ .idle ∨ s.seq.state ≠ .idle ∨ s.seq.cancel = true) →
      exec (.trigger x h) s = .next { s with
      sticky := s.sticky ||| 0x080
      counters.reject := s.counters.reject + 1
      out := s.out ++ [.event (.triggerReject s.cmdWord)]
      cmdIdx := s.cmdIdx + 1
      cmdPort := s.cmdPort.tail
      cmdData := none })

/-- R381, R370, R352: HARD_STOP with the lock free enters the stop procedure at its first step. -/
def Obligations.HardStopEntersTheStopProcedure : Prop :=
  ∀ s : State, s.crc.tblReady = true → s.seq.state = .idle → s.seq.cancel = false →
    (¬ s.pausesPoller → exec .hardStop s = .next { s with
      seq := { s.seq with
        state := .stopping, stopPhase := .burst, stopCnt := 0, wait := 0, sessionKind := .hard }
      cmdIdx := s.cmdIdx + 1
      cmdPort := s.cmdPort.tail
      cmdData := none })
    ∧ (s.pausesPoller → exec .hardStop s = .next { s with
      seq := { s.seq with
        state := .stopping, stopPhase := .burst, stopCnt := 0, wait := 0, sessionKind := .hard, autoPaused := true }
      poll := { s.poll with state := .paused, phase := .tick }
      cmdIdx := s.cmdIdx + 1
      cmdPort := s.cmdPort.tail
      cmdData := none })

/-- R380, R357: the ESTOP command, when the port executes it, sets `CANCEL` and never holds (R562: it waits its turn at the
port); the pin sets it at any time, even while the command port is blocked; a `SEQ` step then takes the lock from IDLE, or cuts
a ramp or hold short whatever the wait, with no ramp-down. -/
def Obligations.EstopSetsCancelAndThePinIsNeverBlocked : Prop :=
  (∀ s : State, exec .estop s = .next { s with
      seq.cancel := true
      cmdIdx := s.cmdIdx + 1
      cmdPort := s.cmdPort.tail
      cmdData := none })
  ∧ (∀ (s : State) (d : ChanDraw) (ts : List Turn), s.schedule = { move := .hostEstop, draw := d } :: ts →
      step s = .next { s with seq.cancel := true, schedule := ts, draw := d })
  ∧ (∀ s : State, s.seq.state = .idle → s.seq.cancel = true → ¬ s.pausesPoller →
      s.seqMove = some { s with seq := { s.seq with
        state := .stopping, stopPhase := .burst, stopCnt := 0, wait := 0, sessionKind := .emergency } })
  ∧ (∀ s : State, s.seq.state = .idle → s.seq.cancel = true → s.pausesPoller →
      s.seqMove = some { s with
        seq := { s.seq with
          state := .stopping, stopPhase := .burst, stopCnt := 0, wait := 0, sessionKind := .emergency,
          autoPaused := true }
        poll := { s.poll with state := .paused, phase := .tick } })
  ∧ (∀ s : State, (s.seq.state = .rampingUp ∨ s.seq.state = .holding ∨ s.seq.state = .rampingDown) →
      s.seq.cancel = true →
      s.seqMove = some { s with seq := { s.seq with
        state := .stopping, stopPhase := .burst, stopCnt := 0, wait := 0 } })

/-- R354 (by R353), every write ok: RAMPING_UP sends exactly |T| + 1 duty frames, in unit steps to the target and the
target once more, and then holds for `HOLD` ticks. R353: one such step's whole next state, with `STEP_DELAY` to wait after a
step of the ramp and `HOLD` after the last frame; and no step before the wait is over or the table is ready. The spec marks
R354 as derived from R353. -/
def Obligations.RampUpSendsUnitStepsThenTheTarget : Prop :=
  (∀ (s : State) (ds : List ChanDraw), s.crc.tblReady = true → s.seq.state = .rampingUp → s.seq.cancel = false →
    s.seq.rampK = 1 → s.targetMag ≤ 100 → ds.length = s.targetMag + 1 → (∀ d ∈ ds, d.write = .ok) →
    (seqRun ds s).wire = s.wire ++ (rampUpValues s.targetPct).map (fun v => .write (s.dutyFrame v) .ok)
    ∧ (seqRun ds s).seq.state = .holding
    ∧ (seqRun ds s).seq.wait = s.seq.hold.setWidth 32
    ∧ (seqRun ds s).seq.duty = s.seq.target
    ∧ (seqRun ds s).counters.txFrame = s.counters.txFrame + BitVec.ofNat 16 (s.targetMag + 1))
  ∧ (∀ s : State, s.seq.state = .rampingUp → s.seq.cancel = false →
    (s.crc.tblReady = true → s.seq.wait = 0 → s.draw.write = .ok → s.seq.rampK.toNat ≤ s.targetMag →
      let v := s.targetPct.sign * s.seq.rampK.toNat
      s.seqMove = some { s with
        seq := { s.seq with
          duty := BitVec.ofInt 8 v, ctrlMode := .duty,
          rampK := s.seq.rampK + 1, wait := BitVec.ofNat 32 s.params.stepDelay }
        wire := s.wire ++ [.write (s.dutyFrame v) .ok]
        chan.tx := s.chan.tx ++ s.dutyFrame v
        counters.txFrame := s.counters.txFrame + 1 })
    ∧ (s.crc.tblReady = true → s.seq.wait = 0 → s.draw.write = .ok → s.targetMag < s.seq.rampK.toNat →
      let v := s.targetPct
      s.seqMove = some { s with
        seq := { s.seq with
          duty := BitVec.ofInt 8 v, ctrlMode := .duty, state := .holding, wait := s.seq.hold.setWidth 32 }
        wire := s.wire ++ [.write (s.dutyFrame v) .ok]
        chan.tx := s.chan.tx ++ s.dutyFrame v
        counters.txFrame := s.counters.txFrame + 1 })
    ∧ ((s.crc.tblReady = false ∨ s.seq.wait ≠ 0) → s.seqMove = none))

/-- R355, R356, every write ok: at the end of the hold with `STOP_MODE = RAMP_DOWN` and |T| ≥ 2, the frames from one below
the target down to one, then the stop procedure after one more step delay. One step's whole next state, with `STEP_DELAY` to
wait after the end of the hold and after every frame; and no RAMPING_DOWN step before the wait is over or the table is
ready. -/
def Obligations.RampDownSendsUnitStepsThenStops : Prop :=
  (∀ (s : State) (ds : List ChanDraw), s.crc.tblReady = true → s.seq.state = .holding → s.seq.cancel = false →
    s.params.stopMode = .rampDown → 2 ≤ s.targetMag → s.targetMag ≤ 100 → ds.length = s.targetMag →
    (∀ d ∈ ds, d.write = .ok) →
    (seqRun ds s).wire = s.wire ++ (rampDownValues s.targetPct).map (fun v => .write (s.dutyFrame v) .ok)
    ∧ (seqRun ds s).seq.state = .stopping
    ∧ (seqRun ds s).seq.stopPhase = .burst
    ∧ (seqRun ds s).seq.stopCnt = 0
    ∧ (seqRun ds s).seq.wait = BitVec.ofNat 32 s.params.stepDelay)
  ∧ (∀ s : State, s.seq.state = .holding → s.seq.cancel = false → s.seq.wait = 0 →
    s.params.stopMode = .rampDown → 2 ≤ s.targetMag →
    s.seqMove = some { s with seq := { s.seq with
      state := .rampingDown, rampK := BitVec.ofNat 7 (s.targetMag - 1),
      wait := BitVec.ofNat 32 s.params.stepDelay } })
  ∧ (∀ s : State, s.seq.state = .rampingDown → s.seq.cancel = false →
    (s.crc.tblReady = true → s.seq.wait = 0 → s.draw.write = .ok →
      let v := s.targetPct.sign * s.seq.rampK.toNat
      let sent : State := { s with
        wire := s.wire ++ [.write (s.dutyFrame v) .ok]
        chan.tx := s.chan.tx ++ s.dutyFrame v
        counters.txFrame := s.counters.txFrame + 1 }
      (1 < s.seq.rampK.toNat → s.seqMove = some { sent with seq := { s.seq with
        duty := BitVec.ofInt 8 v, ctrlMode := .duty,
        rampK := s.seq.rampK - 1, wait := BitVec.ofNat 32 s.params.stepDelay } })
      ∧ (s.seq.rampK.toNat ≤ 1 → s.seqMove = some { sent with seq := { s.seq with
        duty := BitVec.ofInt 8 v, ctrlMode := .duty,
        state := .stopping, stopPhase := .burst, stopCnt := 0, wait := BitVec.ofNat 32 s.params.stepDelay } }))
    ∧ ((s.crc.tblReady = false ∨ s.seq.wait ≠ 0) → s.seqMove = none))

/-- R355: the hold ends in the stop procedure at once with `STOP_MODE = IMMEDIATE` or |T| < 2, and not before its wait is
over. -/
def Obligations.HoldEndsInTheStopProcedure : Prop :=
  ∀ s : State, s.seq.state = .holding → s.seq.cancel = false →
    (s.seq.wait = 0 → (s.params.stopMode = .immediate ∨ s.targetMag < 2) →
      s.seqMove = some { s with seq := { s.seq with
        state := .stopping, stopPhase := .burst, stopCnt := 0, wait := 0 } })
    ∧ (s.seq.wait ≠ 0 → s.seqMove = none)

/-- R358: a duty frame that fails in a ramp raises `IO_ERR_WRITE(SEQ)` and then `SESSION_ABORT` with the state, and starts
the stop procedure; `DUTY` still holds the duty attempted (R343). -/
def Obligations.RampWriteErrorAbortsTheSession : Prop :=
  ∀ (s : State) (k : Nat) (v : Int), s.crc.tblReady = true → s.seq.cancel = false → s.seq.wait = 0 →
    s.draw.write = .err k →
    ((s.seq.state = .rampingUp ∧ v = s.rampUpDuty) ∨ (s.seq.state = .rampingDown ∧ v = s.rampDownDuty)) →
    s.seqMove = some { s with
      seq := { s.seq with
        state := .stopping, stopPhase := .burst, stopCnt := 0, wait := 0, duty := BitVec.ofInt 8 v, ctrlMode := .duty }
      wire := s.wire ++ [.write (s.dutyFrame v) .err]
      chan.tx := s.chan.tx ++ (s.dutyFrame v).take k
      sticky := s.sticky ||| 0x020 ||| 0x400
      counters.ioErr := s.counters.ioErr + 1
      out := s.out ++ [.event (.ioErrWrite .seq), .event (.sessionAbort s.seq.state)] }

/-- R378 (by R371 to R376), whatever each write answers: the stop procedure's records on `WIRE` in order, and how it
ends. The spec marks R378 as derived from R371 to R375. -/
def Obligations.StopProcedureOutput : Prop :=
  ∀ (s : State) (ds : List ChanDraw), s.params.Valid → s.crc.tblReady = true → s.seq.state = .stopping →
    s.seq.stopPhase = .burst → s.seq.stopCnt = 0 → ds.length = s.stopOps.length →
    (seqRun ds s).wire = s.wire ++ List.zipWith stopRecord s.stopOps ds
    ∧ (seqRun ds s).seq.state = .idle
    ∧ (seqRun ds s).seq.sessionKind = .none
    ∧ (seqRun ds s).seq.cancel = false
    ∧ (seqRun ds s).seq.duty = 0
    ∧ (seqRun ds s).seq.ctrlMode = (if s.params.stopReconfirm then .current else .duty)

/-- R374, R111: the flush step discards the channel's pending input, and nothing of `ACC`, with the reconfirmation to come or
without it. R375: the reconfirmation, written or failed. R376: the step that completes a session (the flush without
reconfirmation, or the reconfirmation) releases the lock, clears `CANCEL`, moves a gated session's gate to its cooldown, and
resumes a poller that is still auto-paused. Each clause gives the whole next state. That `GATE_WAIT` keeps its value when
`COOLDOWN = 0` is the model's reading, log entry 10; that a flush keeps a prefix of the accepted output is the model's choice,
log entry 7. -/
def Obligations.CompletionFlushesAndReleases : Prop :=
  ∀ s : State, s.seq.state = .stopping → s.seq.wait = 0 →
    let flushed : State := { s with
      wire := s.wire ++ [.flush]
      chan := { s.chan with rx := [], tx := s.chan.tx.take s.draw.flushKeep } }
    let released : Sequencer := { s.seq with
      state := .idle, cancel := false, sessionGated := false, autoPaused := false, sessionKind := .none }
    let gate : Gate :=
      if s.seq.sessionGated = false then s.gate
      else if s.params.cooldown = 0 then { s.gate with state := .idle }
      else { state := .cooldown, wait := BitVec.ofNat 32 s.params.cooldown }
    let poll : Poller :=
      if s.seq.autoPaused = true ∧ s.poll.state = .paused then
        { s.poll with state := .running, phase := .tick, wait := 0 }
      else s.poll
    (s.seq.stopPhase = .flush → s.params.stopReconfirm = true →
      s.seqMove = some { flushed with seq := { s.seq with stopPhase := .reconfirm, wait := 0 } })
    ∧ (s.seq.stopPhase = .flush → s.params.stopReconfirm = false →
      s.seqMove = some { flushed with seq := released, gate := gate, poll := poll })
    ∧ (s.seq.stopPhase = .reconfirm → s.crc.tblReady = true →
      (s.draw.write = .ok → s.seqMove = some { s with
        seq := { released with ctrlMode := .current }
        gate := gate
        poll := poll
        wire := s.wire ++ [.write s.currentZeroFrame .ok]
        chan.tx := s.chan.tx ++ s.currentZeroFrame
        counters.txFrame := s.counters.txFrame + 1 })
      ∧ (∀ k, s.draw.write = .err k → s.seqMove = some { s with
        seq := { released with ctrlMode := .current }
        gate := gate
        poll := poll
        wire := s.wire ++ [.write s.currentZeroFrame .err]
        chan.tx := s.chan.tx ++ s.currentZeroFrame.take k
        sticky := s.sticky ||| 0x020
        counters.ioErr := s.counters.ioErr + 1
        out := s.out ++ [.event (.ioErrWrite .seq)] }))

/-- R371, R372, R373: the steps BURST, CURRENT and SUSTAIN, each with its whole next state for a frame written and for a
frame that fails, which only raises `IO_ERR_WRITE(SEQ)`; the next frame waits its gap, and the flush that follows the last
SUSTAIN frame waits nothing. R370, R210: no step of the stop procedure before its wait is over, and none that sends a frame
before the table is ready. -/
def Obligations.StopStepsSendReportAndWaitTheirGap : Prop :=
  (∀ s : State, s.seq.state = .stopping → s.seq.wait = 0 → s.crc.tblReady = true →
    let sent (f : List Byte) : State := { s with
      wire := s.wire ++ [.write f .ok]
      chan.tx := s.chan.tx ++ f
      counters.txFrame := s.counters.txFrame + 1 }
    let failed (f : List Byte) (k : Nat) : State := { s with
      wire := s.wire ++ [.write f .err]
      chan.tx := s.chan.tx ++ f.take k
      sticky := s.sticky ||| 0x020
      counters.ioErr := s.counters.ioErr + 1
      out := s.out ++ [.event (.ioErrWrite .seq)] }
    let zero := s.dutyFrame 0
    let n := s.seq.stopCnt + 1
    let burst : Sequencer := { s.seq with
      duty := 0, ctrlMode := .duty, stopCnt := n,
      stopPhase := if n.toNat < s.params.stopBurstN then .burst else .current,
      wait := BitVec.ofNat 32 s.params.stopBurstGap }
    let current : Sequencer := { s.seq with
      ctrlMode := .current, stopCnt := 0, stopPhase := .sustain, wait := BitVec.ofNat 32 s.params.stopSustainGap }
    let sustain : Sequencer := { s.seq with
      duty := 0, ctrlMode := .duty, stopCnt := n,
      stopPhase := if n.toNat < s.params.stopSustainN then .sustain else .flush,
      wait := if n.toNat < s.params.stopSustainN then BitVec.ofNat 32 s.params.stopSustainGap else 0 }
    (s.draw.write = .ok →
      (s.seq.stopPhase = .burst → s.seqMove = some { sent zero with seq := burst })
      ∧ (s.seq.stopPhase = .current → s.seqMove = some { sent s.currentZeroFrame with seq := current })
      ∧ (s.seq.stopPhase = .sustain → s.seqMove = some { sent zero with seq := sustain }))
    ∧ (∀ k, s.draw.write = .err k →
      (s.seq.stopPhase = .burst → s.seqMove = some { failed zero k with seq := burst })
      ∧ (s.seq.stopPhase = .current → s.seqMove = some { failed s.currentZeroFrame k with seq := current })
      ∧ (s.seq.stopPhase = .sustain → s.seqMove = some { failed zero k with seq := sustain })))
  ∧ (∀ s : State, s.seq.state = .stopping →
    (s.seq.wait ≠ 0 → s.seqMove = none)
    ∧ (s.seq.stopPhase ≠ .flush → s.crc.tblReady = false → s.seqMove = none))

/-- R392: the gate is released exactly when it cools down and its wait has elapsed, whatever `SEQ_STATE` is. -/
def Obligations.CooldownReleaseWaitsForTheWindow : Prop :=
  ∀ s : State,
    (s.gate.state = .cooldown → s.gate.wait = 0 →
      runMove .gateRelease s = .next { s with gate := { s.gate with state := .idle } })
    ∧ ((s.gate.state ≠ .cooldown ∨ s.gate.wait ≠ 0) → runMove .gateRelease s = .next s)

/-- R377: every session ends within R377's number of `SEQ` steps, whatever the channel answers, each delay waited out. R572:
in a run with every in-block agent weakly fair, from a state with the invariant, every hold of R571 is lifted, however far the
run has gone: the table becomes ready, the session lock comes free, every delay elapses, a running poller takes its step; and
if `HOST` supplies the bytes its commands name, `DIN` gets them, and, once the `estop` pin is no longer pulsed, every
presented command is retired in its turn and a full `DIN` drains to the next command that takes bytes. No cycle of holds
exists: whether `SEQ` or `POLL` has a step depends on its own registers and `TBL_READY` (`SEQ`'s release on the gate's), never
on `CMD`, nor `POLL`'s on `SEQ`; and nothing `CHAN` has or chooses gives an agent a step or takes it away. The spec marks
R377, R571 and R572 as derived. The form of a run, of fairness and of the two premises on the inputs (no reset; an end of the
pin's pulses) are the model's choice, log entry 23. -/
def Obligations.SessionsEndAndEveryHoldIsLifted : Prop :=
  (∀ (s : State) (ds : List ChanDraw), s.Inv → s.crc.tblReady = true → s.seq.state ≠ .idle →
    ds.length = s.sessionBound →
    ∃ k, k ≤ s.sessionBound ∧ (seqRun (ds.take k) s).seq.state = .idle)
  ∧ (∀ (turns : Nat → Turn) (r : Nat → State), IsRun turns r → WeaklyFair turns r → (r 0).Inv →
    (∀ n, (turns n).move ≠ .hostReset) →
    Recurs r (fun s => s.crc.tblReady = true)
    ∧ Recurs r (fun s => s.seq.state = .idle ∧ s.seq.cancel = false)
    ∧ Recurs r (fun s => s.seq.wait = 0)
    ∧ Recurs r (fun s => s.gate.wait = 0)
    ∧ Recurs r (fun s => s.poll.wait = 0)
    ∧ Recurs r (fun s => s.poll.tempLeft = 0)
    ∧ (∀ n, (∀ k, n ≤ k → (r k).poll.state = .running) →
        ∃ k, n ≤ k ∧ BlockAgent.Takes (r k) (turns k).move .poll)
    ∧ (HostSupplies turns r →
      Recurs r (fun s => ¬ s.AwaitsDin)
      ∧ ((∃ m, ∀ n, m ≤ n → (turns n).move ≠ .hostEstop) →
        (∀ n, (r n).cmdPort ≠ [] → ∃ k, n ≤ k ∧ (r n).cmdIdx < (r k).cmdIdx)
        ∧ (∀ n, (r n).WillTakeBytes → ∃ k, n ≤ k ∧ (r k).din.length < (r k).params.dinDepth))))
  ∧ (∀ s t : State, s.crc.tblReady = t.crc.tblReady →
    (s.seq = t.seq → s.seqMove.isSome = t.seqMove.isSome)
    ∧ (s.gate = t.gate → s.gateReleaseMove.isSome = t.gateReleaseMove.isSome)
    ∧ (s.poll = t.poll → s.pollMove.isSome = t.pollMove.isSome))
  ∧ (∀ (s : State) (c : Channel) (d : ChanDraw) (a : BlockAgent),
    a.Enabled { s with chan := c, draw := d } ↔ a.Enabled s)

/-- R394: in a session started by RAMP_AND_HOLD or TRIGGER every duty frame a `SEQ` step writes is of a duty within
±`MAX_DUTY`. The spec marks R394 as derived. -/
def Obligations.SessionFramesStayWithinMaxDuty : Prop :=
  ∀ s t : State, s.Inv → (s.seq.sessionKind = .ramp ∨ s.seq.sessionKind = .gated) → s.seqMove = some t →
    ∀ (f : List Byte) (o : IoOutcome), t.wire = s.wire ++ [.write f o] →
      f = s.currentZeroFrame ∨ ∃ v : Int, v.natAbs ≤ s.params.maxDuty ∧ f = s.dutyFrame v

/-- R341, R342, R395: a command executed while a session holds the lock writes nothing to the channel and leaves the gate
alone; of the sequencer's registers it can change only `CANCEL` (ESTOP, R380) and `AUTO_PAUSED` (the poller's commands, R430
to R434). The spec marks R395 as derived from R341 and R342. -/
def Obligations.CommandsInASessionChangeOnlyCancelAndAutoPaused : Prop :=
  ∀ (i : Instr) (s t : State), s.seq.state ≠ .idle → exec i s = .next t →
    t.wire = s.wire ∧ t.chan = s.chan ∧ t.gate = s.gate
    ∧ t.seq = { s.seq with cancel := t.seq.cancel, autoPaused := t.seq.autoPaused }
    ∧ (t.seq.cancel ≠ s.seq.cancel → i = .estop)

/-! ### Poller -/

/-- R430, R431: POLL_START and POLL_START_TEMP start a stopped poller with a fresh accumulator and do nothing otherwise. -/
def Obligations.PollStartAndPollStartTemp : Prop :=
  ∀ (n : Nat) (s : State),
    (s.poll.state = .stopped →
      exec .pollStart s = .next { s with
        poll := { state := .running, phase := .tick, wait := 0, t0 := s.now, tempActive := false, tempLeft := 0 }
        seq.autoPaused := false
        acc := []
        cmdIdx := s.cmdIdx + 1
        cmdPort := s.cmdPort.tail
        cmdData := none }
      ∧ exec (.pollStartTemp n) s = .next { s with
        poll := { state := .running, phase := .tick, wait := 0, t0 := s.now, tempActive := true,
                  tempLeft := BitVec.ofNat 32 n }
        seq.autoPaused := false
        acc := []
        cmdIdx := s.cmdIdx + 1
        cmdPort := s.cmdPort.tail
        cmdData := none })
    ∧ (s.poll.state ≠ .stopped →
      exec .pollStart s
        = .next { s with cmdIdx := s.cmdIdx + 1, cmdPort := s.cmdPort.tail, cmdData := none }
      ∧ exec (.pollStartTemp n) s
        = .next { s with cmdIdx := s.cmdIdx + 1, cmdPort := s.cmdPort.tail, cmdData := none })

/-- R432, R433, R434: POLL_PAUSE, POLL_RESUME and POLL_STOP in every state of the poller; POLL_STOP is idempotent and
emits one `LogClose`. R438: an expired temporary window stops the poller, pre-empting the tick, in RUNNING and in PAUSED. -/
def Obligations.PollPauseResumeStopAndExpiry : Prop :=
  (∀ s : State,
    let idle : State := { s with cmdIdx := s.cmdIdx + 1, cmdPort := s.cmdPort.tail, cmdData := none }
    (s.poll.state ≠ .stopped → exec .pollPause s
      = .next { idle with poll := { s.poll with state := .paused, phase := .tick }, seq.autoPaused := false })
    ∧ (s.poll.state = .stopped → exec .pollPause s = .next idle)
    ∧ (s.poll.state = .paused → exec .pollResume s = .next { idle with
        poll := { s.poll with state := .running, phase := .tick, wait := 0 }, seq.autoPaused := false })
    ∧ (s.poll.state ≠ .paused → exec .pollResume s = .next idle)
    ∧ (s.poll.state ≠ .stopped → exec .pollStop s = .next { idle with
        poll := { s.poll with
          state := .stopped, phase := .tick, wait := 0, tempActive := false, tempLeft := 0 }
        seq.autoPaused := false
        log := s.log ++ [.logClose (s.now - s.poll.t0)] })
    ∧ (s.poll.state = .stopped → exec .pollStop s = .next idle))
  ∧ (∀ s : State, s.poll.tempActive = true → s.poll.tempLeft = 0 → s.poll.state ≠ .stopped →
    s.pollMove = some { s with
      poll := { s.poll with state := .stopped, phase := .tick, wait := 0, tempActive := false, tempLeft := 0 }
      seq.autoPaused := false
      log := s.log ++ [.logClose (s.now - s.poll.t0)] })

/-- R435, R421: a due tick of a running poller sends the request `02 01 04 40 84 03` and waits `RESP_WAIT`; a failed write
is reported and tried again after `BACKOFF`. R436 (the failure half), R441: a read that fails or brings nothing raises
`IO_ERR_READ`, and the poller stays RUNNING and waits `BACKOFF`. R435, R436, R210: a poller that is not RUNNING, or whose wait
is not over, or whose table is not ready, has no send and no read step. That the read step holds for the table is the model's
reading of R210, log entry 8; that a read that fails leaves the channel's pending input is the model's choice, log entry
21. -/
def Obligations.PollTickSendsAndFailuresBackOff : Prop :=
  (∀ s : State, s.crc.tblReady = true → s.crc.tbl = romTable → s.poll.state = .running → s.poll.phase = .tick →
    s.poll.wait = 0 → (s.poll.tempActive = false ∨ s.poll.tempLeft ≠ 0) →
    (s.draw.write = .ok → s.pollMove = some { s with
      wire := s.wire ++ [.write [0x02, 0x01, 0x04, 0x40, 0x84, 0x03] .ok]
      chan.tx := s.chan.tx ++ [0x02, 0x01, 0x04, 0x40, 0x84, 0x03]
      counters.txFrame := s.counters.txFrame + 1
      poll := { s.poll with phase := .resp, wait := BitVec.ofNat 32 s.params.respWait } })
    ∧ (∀ k, s.draw.write = .err k → s.pollMove = some { s with
      wire := s.wire ++ [.write [0x02, 0x01, 0x04, 0x40, 0x84, 0x03] .err]
      chan.tx := s.chan.tx ++ [0x02, 0x01, 0x04, 0x40, 0x84, 0x03].take k
      sticky := s.sticky ||| 0x020
      counters.ioErr := s.counters.ioErr + 1
      out := s.out ++ [.event (.ioErrWrite .poll)]
      poll := { s.poll with wait := BitVec.ofNat 32 s.params.backoff } }))
  ∧ (∀ s : State, s.crc.tblReady = true → s.poll.state = .running → s.poll.phase = .resp → s.poll.wait = 0 →
    (s.poll.tempActive = false ∨ s.poll.tempLeft ≠ 0) →
    (s.draw.read = .err ∨ ∃ n, s.draw.read = .bytes n ∧ (n = 0 ∨ s.chan.rx = [])) →
    s.pollMove = some { s with
      wire := s.wire ++ [.read s.readResult]
      sticky := s.sticky ||| 0x040
      counters.ioErr := s.counters.ioErr + 1
      out := s.out ++ [.event (.ioErrRead .poll)]
      poll := { s.poll with phase := .tick, wait := BitVec.ofNat 32 s.params.backoff } })
  ∧ (∀ s : State, (s.poll.tempActive = false ∨ s.poll.tempLeft ≠ 0) →
    (s.poll.state ≠ .running ∨ s.poll.wait ≠ 0 ∨ s.crc.tblReady = false) → s.pollMove = none)
  ∧ (∀ s : State, s.poll.state = .stopped → s.pollMove = none)

/-- R436, R440, R261, R504: a read that brings bytes, which fit in `ACC`: they are pushed, the scan's events come in order,
each payload is decoded in order, samples go to `LOG` with the ticks since the start, nulls raise `DECODE_NULL`, and the next
tick is due after `POLL_INTERVAL`. Nothing else changes. -/
def Obligations.PollReadDecodesEveryPayload : Prop :=
  ∀ (s : State) (n : Nat) (b : List Byte), s.crc.tblReady = true → s.poll.state = .running → s.poll.phase = .resp →
    s.poll.wait = 0 → (s.poll.tempActive = false ∨ s.poll.tempLeft ≠ 0) →
    s.draw.read = .bytes n → b = s.chan.rx.take (min n s.params.readMax) → b ≠ [] →
    s.acc.length + b.length ≤ s.params.rxCap →
    let r := extract s.crc.tbl (s.acc ++ b)
    let clears := s.params.rxClearThreshold < r.rem.length
    let scanned := if clears then stickyAfter s.sticky r.ev ||| 0x200 else stickyAfter s.sticky r.ev
    let samples := sampleRecords (s.now - s.poll.t0) r.out
    let nulls := nullEvents r.out
    s.pollMove = some { s with
      wire := s.wire ++ [.read (.bytes b)]
      chan.rx := s.chan.rx.drop (min n s.params.readMax)
      acc := if clears then [] else r.rem
      out := s.out ++ r.ev.map .event ++ (if clears then [.event (.rxClr r.rem.length)] else []) ++ nulls
      log := s.log ++ samples
      sticky := if nulls = [] then scanned else scanned ||| 0x010
      counters := { s.counters with
        crcErr := s.counters.crcErr + BitVec.ofNat 16 (crcErrCount r.ev)
        termErr := s.counters.termErr + BitVec.ofNat 16 (termErrCount r.ev)
        frame := s.counters.frame + BitVec.ofNat 16 r.out.length
        sample := s.counters.sample + BitVec.ofNat 16 samples.length
        decodeNull := s.counters.decodeNull + BitVec.ofNat 16 nulls.length
        rxClr := if clears then s.counters.rxClr + 1 else s.counters.rxClr }
      poll := { s.poll with phase := .tick, wait := BitVec.ofNat 32 s.params.pollInterval } }

/-- R441, R503: a poller step, and so its failures and decode-level events, changes no register of the sequencer but
`AUTO_PAUSED`, which the expiry of the window clears (R434, R438); the gate, the CRC unit, `DIN` and the command port stay.
The spec marks R503 as derived. -/
def Obligations.PollerChangesNoSeqRegisterButAutoPaused : Prop :=
  ∀ s t : State, s.pollMove = some t →
    t.seq = { s.seq with autoPaused := t.seq.autoPaused } ∧ t.gate = s.gate ∧ t.crc = s.crc ∧ t.din = s.din
    ∧ t.cmdIdx = s.cmdIdx ∧ t.cmdPort = s.cmdPort ∧ t.cmdData = s.cmdData ∧ t.now = s.now
    ∧ (t.seq.autoPaused ≠ s.seq.autoPaused → t.poll.state = .stopped)

/-- R437: while the sequencer holds the poller paused for a session, no step writes the poller's request. -/
def Obligations.NoRequestWhileAutoPaused : Prop :=
  ∀ s t : State, s.Inv → s.seq.autoPaused = true → step s = .next t →
    ∀ o : IoOutcome, t.wire ≠ s.wire ++ [.write s.requestFrame o]

/-! ### Status -/

/-- R480: STAT_READ emits the value of each index 0..17 and refuses every other index with `ILLEGAL_CMD`. That index 12
gives the whole length of an `ACC` longer than 65535 bytes is the model's choice, log entry 22. -/
def Obligations.StatReadEmitsTheIndexedValue : Prop :=
  ∀ s : State,
    (∀ (i : Nat) (v : Word),
      (i, v) ∈ [(0, s.status), (1, s.counters.crcErr.setWidth 32), (2, s.counters.termErr.setWidth 32),
        (3, s.counters.frame.setWidth 32), (4, s.counters.txFrame.setWidth 32), (5, s.counters.sample.setWidth 32),
        (6, s.counters.decodeNull.setWidth 32), (7, s.counters.ioErr.setWidth 32), (8, s.counters.reject.setWidth 32),
        (9, s.counters.rxClr.setWidth 32), (10, s.counters.rxOvf.setWidth 32), (11, s.now),
        (12, BitVec.ofNat 32 s.acc.length), (13, s.crc.crcAcc.setWidth 32), (14, BitVec.ofNat 32 s.din.length),
        (15, BitVec.ofInt 32 s.seq.duty.toInt), (16, BitVec.ofInt 32 s.seq.target.toInt),
        (17, BitVec.ofNat 32 s.cmdIdx)] →
      exec (.statRead i) s = .next { s with
        out := s.out ++ [.result v]
        cmdIdx := s.cmdIdx + 1
        cmdPort := s.cmdPort.tail
        cmdData := none })
    ∧ (∀ i, 18 ≤ i → exec (.statRead i) s = .next { s with
        sticky := s.sticky ||| 0x001
        out := s.out ++ [.event (.illegalCmd s.cmdWord)]
        cmdIdx := s.cmdIdx + 1
        cmdPort := s.cmdPort.tail
        cmdData := none })

/-- R481 with the codes of R60, R62, R70, R71, R75 and R76: the fields of the status word. -/
def Obligations.StatusWordLayout : Prop :=
  ∀ s : State,
    s.status.extractLsb' 0 3
      = (match s.seq.state with
         | .idle => 0 | .rampingUp => 1 | .holding => 2 | .rampingDown => 3 | .stopping => 4)
    ∧ s.status.extractLsb' 3 2 = (match s.poll.state with | .stopped => 0 | .running => 1 | .paused => 2)
    ∧ s.status.extractLsb' 5 2 = (match s.gate.state with | .idle => 0 | .busy => 1 | .cooldown => 2)
    ∧ s.status.getLsbD 7 = s.crc.tblReady
    ∧ s.status.getLsbD 8 = s.seq.cancel
    ∧ s.status.getLsbD 9 = (s.seq.ctrlMode == .current)
    ∧ s.status.getLsbD 10 = s.seq.autoPaused
    ∧ s.status.getLsbD 11 = s.poll.tempActive
    ∧ s.status.getLsbD 12 = (s.poll.phase == .resp)
    ∧ s.status.extractLsb' 13 3
      = (match s.seq.sessionKind with
         | .none => 0 | .ramp => 1 | .gated => 2 | .hard => 3 | .emergency => 4 | .reset => 5)
    ∧ s.status.extractLsb' 16 11 = s.sticky
    ∧ s.status.getLsbD 27 = s.seq.sessionGated
    ∧ s.status.extractLsb' 28 4 = 0

/-- R80: a sticky bit once set is cleared only by a step that executes STATUS_CLEAR or by reset. -/
def Obligations.StickyBitsStayUntilCleared : Prop :=
  ∀ s t : State, step s = .next t → s.nextTurn.move ≠ .hostReset →
    (∀ w ws, s.nextTurn.move = .cmd → s.cmdPort = w :: ws → decode w ≠ .instr .statusClear) →
    s.sticky &&& t.sticky = s.sticky

/-! ### The whole machine -/

/-- R44, R510: a tick advances `NOW` modulo 2^32 and counts the four down-counters to 0; nothing else writes `NOW` but
reset. -/
def Obligations.OnlyTheClockAdvancesTime : Prop :=
  (∀ s : State, runMove .clk s = .next { s with
      now := BitVec.ofNat 32 (s.now.toNat + 1)
      seq.wait := BitVec.ofNat 32 (s.seq.wait.toNat - 1)
      gate.wait := BitVec.ofNat 32 (s.gate.wait.toNat - 1)
      poll := { s.poll with
        wait := BitVec.ofNat 32 (s.poll.wait.toNat - 1), tempLeft := BitVec.ofNat 32 (s.poll.tempLeft.toNat - 1) } })
  ∧ (∀ s t : State, step s = .next t → s.nextTurn.move ≠ .clk → s.nextTurn.move ≠ .hostReset → t.now = s.now)

/-- R82, R112: outside a reset the streams only grow, and one step performs at most one channel operation (R113, which the
spec marks as derived). R265: `TX_FRAME_COUNT` goes up by one exactly in a step that writes a frame with outcome ok. -/
def Obligations.StreamsOnlyGrowAndOkWritesAreCounted : Prop :=
  (∀ s t : State, step s = .next t → s.nextTurn.move ≠ .hostReset →
    s.out <+: t.out ∧ s.log <+: t.log ∧ s.wire <+: t.wire ∧ t.wire.length ≤ s.wire.length + 1)
  ∧ (∀ s t : State, step s = .next t → s.nextTurn.move ≠ .hostReset →
    (∀ f, t.wire = s.wire ++ [.write f .ok] → t.counters.txFrame = s.counters.txFrame + 1)
    ∧ ((∀ f, t.wire ≠ s.wire ++ [.write f .ok]) → t.counters.txFrame = s.counters.txFrame))

/-- R112: the arbiter grants the channel to `SEQ` first, then `CMD`, then `POLL`; and an agent counts as having a
channel step enabled exactly when its step makes a record on `WIRE`. The arbiter as a move beside the free order is the
model's choice, log entry 1. -/
def Obligations.ArbiterGrantsSeqThenCmdThenPoll : Prop :=
  (∀ s : State, s.seqUsesChannel = true → runMove .arbiter s = runMove .seq s)
  ∧ (∀ s : State, s.seqUsesChannel = false → s.cmdUsesChannel = true → runMove .arbiter s = runMove .cmd s)
  ∧ (∀ s : State, s.seqUsesChannel = false → s.cmdUsesChannel = false → s.pollUsesChannel = true →
      runMove .arbiter s = runMove .poll s)
  ∧ (∀ s t : State, runMove .seq s = .next t → (t.wire ≠ s.wire ↔ s.seqUsesChannel = true))
  ∧ (∀ s t : State, runMove .cmd s = .next t → (t.wire ≠ s.wire ↔ s.cmdUsesChannel = true))
  ∧ (∀ s t : State, runMove .poll s = .next t → (t.wire ≠ s.wire ↔ s.pollUsesChannel = true))

/-- R550, R90, R382: a reset gives every state element R90's value, keeps the parameters and the channel, and writes
nothing to the channel. -/
def Obligations.ResetGivesTheListedValues : Prop :=
  ∀ (s t : State) (d : ChanDraw) (ts : List Turn), s.schedule = { move := .hostReset, draw := d } :: ts →
    step s = .next t →
    t.params = s.params ∧ t.chan = s.chan
    ∧ t.cmdIdx = 0 ∧ t.now = 0 ∧ t.cmdPort = [] ∧ t.cmdData = none
    ∧ t.crc.tblReady = (s.params.tableImpl == .rom) ∧ t.crc.tbl.length = 256
    ∧ (s.params.tableImpl = .rom → t.crc.tbl = romTable)
    ∧ t.crc.genI = 0 ∧ t.crc.genJ = 0 ∧ t.crc.genCrc = 0x0000 ∧ t.crc.genC = 0x0000 ∧ t.crc.crcAcc = 0x0000
    ∧ t.acc = [] ∧ t.din = []
    ∧ t.seq = { state := if s.params.stopOnReset then .stopping else .idle
                duty := 0, ctrlMode := .duty, target := 0, hold := 0, rampK := 0, stopPhase := .burst, stopCnt := 0
                wait := 0, cancel := false, sessionGated := false, autoPaused := false
                sessionKind := if s.params.stopOnReset then .reset else .none }
    ∧ t.gate = { state := .idle, wait := 0 }
    ∧ t.poll = { state := .stopped, phase := .tick, wait := 0, t0 := 0, tempActive := false, tempLeft := 0 }
    ∧ t.sticky = 0
    ∧ t.counters = { crcErr := 0, termErr := 0, frame := 0, txFrame := 0, sample := 0, decodeNull := 0, ioErr := 0,
                     reject := 0, rxClr := 0, rxOvf := 0 }
    ∧ t.out = [] ∧ t.log = [] ∧ t.wire = []

/-- R90, R51: the state after reset meets the invariant, for every allowed parameter record; and the state of the
interface does. -/
def Obligations.InvariantHoldsAtReset : Prop :=
  (∀ (p : Config.Params) (ch : Channel) (d : ChanDraw) (ts : List Turn) (k : Nat), p.Valid →
    (State.resetWith p ch d ts k).Inv)
  ∧ State.reset.Inv

/-- R51, R61, R63, R69, R70, R71, R341, R394 and the rest of `State.Inv`: every step of every agent keeps the
invariant, from every state that meets it; and no step changes the parameters (R9), a reset included. The spec marks
R394 as derived; the clause about a taken payload rests on log entry 6. -/
def Obligations.EveryStepKeepsTheInvariant : Prop :=
  ∀ s t : State, step s = .next t → t.params = s.params ∧ (s.Inv → t.Inv)
end

