-- ==== Sys2Proof/Laws/State.lean ====
section
/-! SUPPORT. One lemma per field per update of State: what each plain update of the machine leaves in each field. They are
true by definition and tagged simp, so that no later proof unfolds a record update. -/

namespace Sys2Proof.Machine.State

/-! Recording an event (60_exceptions.md R500, R501). -/

@[simp] theorem raise_params (e : Event) (s : State) : (s.raise e).params = s.params := rfl
@[simp] theorem raise_cmdIdx (e : Event) (s : State) : (s.raise e).cmdIdx = s.cmdIdx := rfl
@[simp] theorem raise_cmdPort (e : Event) (s : State) : (s.raise e).cmdPort = s.cmdPort := rfl
@[simp] theorem raise_cmdData (e : Event) (s : State) : (s.raise e).cmdData = s.cmdData := rfl
@[simp] theorem raise_now (e : Event) (s : State) : (s.raise e).now = s.now := rfl
@[simp] theorem raise_crc (e : Event) (s : State) : (s.raise e).crc = s.crc := rfl
@[simp] theorem raise_acc (e : Event) (s : State) : (s.raise e).acc = s.acc := rfl
@[simp] theorem raise_din (e : Event) (s : State) : (s.raise e).din = s.din := rfl
@[simp] theorem raise_seq (e : Event) (s : State) : (s.raise e).seq = s.seq := rfl
@[simp] theorem raise_gate (e : Event) (s : State) : (s.raise e).gate = s.gate := rfl
@[simp] theorem raise_poll (e : Event) (s : State) : (s.raise e).poll = s.poll := rfl
@[simp] theorem raise_sticky (e : Event) (s : State) : (s.raise e).sticky = s.sticky ||| e.stickyBit := rfl
@[simp] theorem raise_counters (e : Event) (s : State) : (s.raise e).counters = s.counters.bump e := rfl
@[simp] theorem raise_out (e : Event) (s : State) : (s.raise e).out = s.out ++ [.event e] := rfl
@[simp] theorem raise_log (e : Event) (s : State) : (s.raise e).log = s.log := rfl
@[simp] theorem raise_wire (e : Event) (s : State) : (s.raise e).wire = s.wire := rfl
@[simp] theorem raise_chan (e : Event) (s : State) : (s.raise e).chan = s.chan := rfl
@[simp] theorem raise_draw (e : Event) (s : State) : (s.raise e).draw = s.draw := rfl
@[simp] theorem raise_schedule (e : Event) (s : State) : (s.raise e).schedule = s.schedule := rfl
@[simp] theorem raise_turns (e : Event) (s : State) : (s.raise e).turns = s.turns := rfl

/-! A record on `OUT` (00_scope.md R14). -/

@[simp] theorem emitOut_params (r : OutRecord) (s : State) : (s.emitOut r).params = s.params := rfl
@[simp] theorem emitOut_cmdIdx (r : OutRecord) (s : State) : (s.emitOut r).cmdIdx = s.cmdIdx := rfl
@[simp] theorem emitOut_cmdPort (r : OutRecord) (s : State) : (s.emitOut r).cmdPort = s.cmdPort := rfl
@[simp] theorem emitOut_cmdData (r : OutRecord) (s : State) : (s.emitOut r).cmdData = s.cmdData := rfl
@[simp] theorem emitOut_now (r : OutRecord) (s : State) : (s.emitOut r).now = s.now := rfl
@[simp] theorem emitOut_crc (r : OutRecord) (s : State) : (s.emitOut r).crc = s.crc := rfl
@[simp] theorem emitOut_acc (r : OutRecord) (s : State) : (s.emitOut r).acc = s.acc := rfl
@[simp] theorem emitOut_din (r : OutRecord) (s : State) : (s.emitOut r).din = s.din := rfl
@[simp] theorem emitOut_seq (r : OutRecord) (s : State) : (s.emitOut r).seq = s.seq := rfl
@[simp] theorem emitOut_gate (r : OutRecord) (s : State) : (s.emitOut r).gate = s.gate := rfl
@[simp] theorem emitOut_poll (r : OutRecord) (s : State) : (s.emitOut r).poll = s.poll := rfl
@[simp] theorem emitOut_sticky (r : OutRecord) (s : State) : (s.emitOut r).sticky = s.sticky := rfl
@[simp] theorem emitOut_counters (r : OutRecord) (s : State) : (s.emitOut r).counters = s.counters := rfl
@[simp] theorem emitOut_out (r : OutRecord) (s : State) : (s.emitOut r).out = s.out ++ [r] := rfl
@[simp] theorem emitOut_log (r : OutRecord) (s : State) : (s.emitOut r).log = s.log := rfl
@[simp] theorem emitOut_wire (r : OutRecord) (s : State) : (s.emitOut r).wire = s.wire := rfl
@[simp] theorem emitOut_chan (r : OutRecord) (s : State) : (s.emitOut r).chan = s.chan := rfl
@[simp] theorem emitOut_draw (r : OutRecord) (s : State) : (s.emitOut r).draw = s.draw := rfl
@[simp] theorem emitOut_schedule (r : OutRecord) (s : State) : (s.emitOut r).schedule = s.schedule := rfl
@[simp] theorem emitOut_turns (r : OutRecord) (s : State) : (s.emitOut r).turns = s.turns := rfl

/-! Several records on `OUT`. -/

@[simp] theorem emitOutAll_params (rs : List OutRecord) (s : State) : (s.emitOutAll rs).params = s.params := rfl
@[simp] theorem emitOutAll_cmdIdx (rs : List OutRecord) (s : State) : (s.emitOutAll rs).cmdIdx = s.cmdIdx := rfl
@[simp] theorem emitOutAll_cmdPort (rs : List OutRecord) (s : State) : (s.emitOutAll rs).cmdPort = s.cmdPort := rfl
@[simp] theorem emitOutAll_cmdData (rs : List OutRecord) (s : State) : (s.emitOutAll rs).cmdData = s.cmdData := rfl
@[simp] theorem emitOutAll_now (rs : List OutRecord) (s : State) : (s.emitOutAll rs).now = s.now := rfl
@[simp] theorem emitOutAll_crc (rs : List OutRecord) (s : State) : (s.emitOutAll rs).crc = s.crc := rfl
@[simp] theorem emitOutAll_acc (rs : List OutRecord) (s : State) : (s.emitOutAll rs).acc = s.acc := rfl
@[simp] theorem emitOutAll_din (rs : List OutRecord) (s : State) : (s.emitOutAll rs).din = s.din := rfl
@[simp] theorem emitOutAll_seq (rs : List OutRecord) (s : State) : (s.emitOutAll rs).seq = s.seq := rfl
@[simp] theorem emitOutAll_gate (rs : List OutRecord) (s : State) : (s.emitOutAll rs).gate = s.gate := rfl
@[simp] theorem emitOutAll_poll (rs : List OutRecord) (s : State) : (s.emitOutAll rs).poll = s.poll := rfl
@[simp] theorem emitOutAll_sticky (rs : List OutRecord) (s : State) : (s.emitOutAll rs).sticky = s.sticky := rfl
@[simp] theorem emitOutAll_counters (rs : List OutRecord) (s : State) : (s.emitOutAll rs).counters = s.counters := rfl
@[simp] theorem emitOutAll_out (rs : List OutRecord) (s : State) : (s.emitOutAll rs).out = s.out ++ rs := rfl
@[simp] theorem emitOutAll_log (rs : List OutRecord) (s : State) : (s.emitOutAll rs).log = s.log := rfl
@[simp] theorem emitOutAll_wire (rs : List OutRecord) (s : State) : (s.emitOutAll rs).wire = s.wire := rfl
@[simp] theorem emitOutAll_chan (rs : List OutRecord) (s : State) : (s.emitOutAll rs).chan = s.chan := rfl
@[simp] theorem emitOutAll_draw (rs : List OutRecord) (s : State) : (s.emitOutAll rs).draw = s.draw := rfl
@[simp] theorem emitOutAll_schedule (rs : List OutRecord) (s : State) : (s.emitOutAll rs).schedule = s.schedule := rfl
@[simp] theorem emitOutAll_turns (rs : List OutRecord) (s : State) : (s.emitOutAll rs).turns = s.turns := rfl

/-! A record on `LOG`. -/

@[simp] theorem emitLog_params (r : LogRecord) (s : State) : (s.emitLog r).params = s.params := rfl
@[simp] theorem emitLog_cmdIdx (r : LogRecord) (s : State) : (s.emitLog r).cmdIdx = s.cmdIdx := rfl
@[simp] theorem emitLog_cmdPort (r : LogRecord) (s : State) : (s.emitLog r).cmdPort = s.cmdPort := rfl
@[simp] theorem emitLog_cmdData (r : LogRecord) (s : State) : (s.emitLog r).cmdData = s.cmdData := rfl
@[simp] theorem emitLog_now (r : LogRecord) (s : State) : (s.emitLog r).now = s.now := rfl
@[simp] theorem emitLog_crc (r : LogRecord) (s : State) : (s.emitLog r).crc = s.crc := rfl
@[simp] theorem emitLog_acc (r : LogRecord) (s : State) : (s.emitLog r).acc = s.acc := rfl
@[simp] theorem emitLog_din (r : LogRecord) (s : State) : (s.emitLog r).din = s.din := rfl
@[simp] theorem emitLog_seq (r : LogRecord) (s : State) : (s.emitLog r).seq = s.seq := rfl
@[simp] theorem emitLog_gate (r : LogRecord) (s : State) : (s.emitLog r).gate = s.gate := rfl
@[simp] theorem emitLog_poll (r : LogRecord) (s : State) : (s.emitLog r).poll = s.poll := rfl
@[simp] theorem emitLog_sticky (r : LogRecord) (s : State) : (s.emitLog r).sticky = s.sticky := rfl
@[simp] theorem emitLog_counters (r : LogRecord) (s : State) : (s.emitLog r).counters = s.counters := rfl
@[simp] theorem emitLog_out (r : LogRecord) (s : State) : (s.emitLog r).out = s.out := rfl
@[simp] theorem emitLog_log (r : LogRecord) (s : State) : (s.emitLog r).log = s.log ++ [r] := rfl
@[simp] theorem emitLog_wire (r : LogRecord) (s : State) : (s.emitLog r).wire = s.wire := rfl
@[simp] theorem emitLog_chan (r : LogRecord) (s : State) : (s.emitLog r).chan = s.chan := rfl
@[simp] theorem emitLog_draw (r : LogRecord) (s : State) : (s.emitLog r).draw = s.draw := rfl
@[simp] theorem emitLog_schedule (r : LogRecord) (s : State) : (s.emitLog r).schedule = s.schedule := rfl
@[simp] theorem emitLog_turns (r : LogRecord) (s : State) : (s.emitLog r).turns = s.turns := rfl

/-! A record on `WIRE`. -/

@[simp] theorem emitWire_params (r : WireRecord) (s : State) : (s.emitWire r).params = s.params := rfl
@[simp] theorem emitWire_cmdIdx (r : WireRecord) (s : State) : (s.emitWire r).cmdIdx = s.cmdIdx := rfl
@[simp] theorem emitWire_cmdPort (r : WireRecord) (s : State) : (s.emitWire r).cmdPort = s.cmdPort := rfl
@[simp] theorem emitWire_cmdData (r : WireRecord) (s : State) : (s.emitWire r).cmdData = s.cmdData := rfl
@[simp] theorem emitWire_now (r : WireRecord) (s : State) : (s.emitWire r).now = s.now := rfl
@[simp] theorem emitWire_crc (r : WireRecord) (s : State) : (s.emitWire r).crc = s.crc := rfl
@[simp] theorem emitWire_acc (r : WireRecord) (s : State) : (s.emitWire r).acc = s.acc := rfl
@[simp] theorem emitWire_din (r : WireRecord) (s : State) : (s.emitWire r).din = s.din := rfl
@[simp] theorem emitWire_seq (r : WireRecord) (s : State) : (s.emitWire r).seq = s.seq := rfl
@[simp] theorem emitWire_gate (r : WireRecord) (s : State) : (s.emitWire r).gate = s.gate := rfl
@[simp] theorem emitWire_poll (r : WireRecord) (s : State) : (s.emitWire r).poll = s.poll := rfl
@[simp] theorem emitWire_sticky (r : WireRecord) (s : State) : (s.emitWire r).sticky = s.sticky := rfl
@[simp] theorem emitWire_counters (r : WireRecord) (s : State) : (s.emitWire r).counters = s.counters := rfl
@[simp] theorem emitWire_out (r : WireRecord) (s : State) : (s.emitWire r).out = s.out := rfl
@[simp] theorem emitWire_log (r : WireRecord) (s : State) : (s.emitWire r).log = s.log := rfl
@[simp] theorem emitWire_wire (r : WireRecord) (s : State) : (s.emitWire r).wire = s.wire ++ [r] := rfl
@[simp] theorem emitWire_chan (r : WireRecord) (s : State) : (s.emitWire r).chan = s.chan := rfl
@[simp] theorem emitWire_draw (r : WireRecord) (s : State) : (s.emitWire r).draw = s.draw := rfl
@[simp] theorem emitWire_schedule (r : WireRecord) (s : State) : (s.emitWire r).schedule = s.schedule := rfl
@[simp] theorem emitWire_turns (r : WireRecord) (s : State) : (s.emitWire r).turns = s.turns := rfl

/-! Retiring (30_encoding.md R146). -/

@[simp] theorem retire_params (s : State) : s.retire.params = s.params := rfl
@[simp] theorem retire_cmdIdx (s : State) : s.retire.cmdIdx = s.cmdIdx + 1 := rfl
@[simp] theorem retire_cmdPort (s : State) : s.retire.cmdPort = s.cmdPort.tail := rfl
@[simp] theorem retire_cmdData (s : State) : s.retire.cmdData = none := rfl
@[simp] theorem retire_now (s : State) : s.retire.now = s.now := rfl
@[simp] theorem retire_crc (s : State) : s.retire.crc = s.crc := rfl
@[simp] theorem retire_acc (s : State) : s.retire.acc = s.acc := rfl
@[simp] theorem retire_din (s : State) : s.retire.din = s.din := rfl
@[simp] theorem retire_seq (s : State) : s.retire.seq = s.seq := rfl
@[simp] theorem retire_gate (s : State) : s.retire.gate = s.gate := rfl
@[simp] theorem retire_poll (s : State) : s.retire.poll = s.poll := rfl
@[simp] theorem retire_sticky (s : State) : s.retire.sticky = s.sticky := rfl
@[simp] theorem retire_counters (s : State) : s.retire.counters = s.counters := rfl
@[simp] theorem retire_out (s : State) : s.retire.out = s.out := rfl
@[simp] theorem retire_log (s : State) : s.retire.log = s.log := rfl
@[simp] theorem retire_wire (s : State) : s.retire.wire = s.wire := rfl
@[simp] theorem retire_chan (s : State) : s.retire.chan = s.chan := rfl
@[simp] theorem retire_draw (s : State) : s.retire.draw = s.draw := rfl
@[simp] theorem retire_schedule (s : State) : s.retire.schedule = s.schedule := rfl
@[simp] theorem retire_turns (s : State) : s.retire.turns = s.turns := rfl

/-! Bytes taken from `DIN` (R147). -/

@[simp] theorem dinDrop_params (n : Nat) (s : State) : (s.dinDrop n).params = s.params := rfl
@[simp] theorem dinDrop_cmdIdx (n : Nat) (s : State) : (s.dinDrop n).cmdIdx = s.cmdIdx := rfl
@[simp] theorem dinDrop_cmdPort (n : Nat) (s : State) : (s.dinDrop n).cmdPort = s.cmdPort := rfl
@[simp] theorem dinDrop_cmdData (n : Nat) (s : State) : (s.dinDrop n).cmdData = s.cmdData := rfl
@[simp] theorem dinDrop_now (n : Nat) (s : State) : (s.dinDrop n).now = s.now := rfl
@[simp] theorem dinDrop_crc (n : Nat) (s : State) : (s.dinDrop n).crc = s.crc := rfl
@[simp] theorem dinDrop_acc (n : Nat) (s : State) : (s.dinDrop n).acc = s.acc := rfl
@[simp] theorem dinDrop_din (n : Nat) (s : State) : (s.dinDrop n).din = s.din.drop n := rfl
@[simp] theorem dinDrop_seq (n : Nat) (s : State) : (s.dinDrop n).seq = s.seq := rfl
@[simp] theorem dinDrop_gate (n : Nat) (s : State) : (s.dinDrop n).gate = s.gate := rfl
@[simp] theorem dinDrop_poll (n : Nat) (s : State) : (s.dinDrop n).poll = s.poll := rfl
@[simp] theorem dinDrop_sticky (n : Nat) (s : State) : (s.dinDrop n).sticky = s.sticky := rfl
@[simp] theorem dinDrop_counters (n : Nat) (s : State) : (s.dinDrop n).counters = s.counters := rfl
@[simp] theorem dinDrop_out (n : Nat) (s : State) : (s.dinDrop n).out = s.out := rfl
@[simp] theorem dinDrop_log (n : Nat) (s : State) : (s.dinDrop n).log = s.log := rfl
@[simp] theorem dinDrop_wire (n : Nat) (s : State) : (s.dinDrop n).wire = s.wire := rfl
@[simp] theorem dinDrop_chan (n : Nat) (s : State) : (s.dinDrop n).chan = s.chan := rfl
@[simp] theorem dinDrop_draw (n : Nat) (s : State) : (s.dinDrop n).draw = s.draw := rfl
@[simp] theorem dinDrop_schedule (n : Nat) (s : State) : (s.dinDrop n).schedule = s.schedule := rfl
@[simp] theorem dinDrop_turns (n : Nat) (s : State) : (s.dinDrop n).turns = s.turns := rfl

/-! Frames counted (41_framer.md R261). -/

@[simp] theorem countFrames_params (n : Nat) (s : State) : (s.countFrames n).params = s.params := rfl
@[simp] theorem countFrames_cmdIdx (n : Nat) (s : State) : (s.countFrames n).cmdIdx = s.cmdIdx := rfl
@[simp] theorem countFrames_cmdPort (n : Nat) (s : State) : (s.countFrames n).cmdPort = s.cmdPort := rfl
@[simp] theorem countFrames_cmdData (n : Nat) (s : State) : (s.countFrames n).cmdData = s.cmdData := rfl
@[simp] theorem countFrames_now (n : Nat) (s : State) : (s.countFrames n).now = s.now := rfl
@[simp] theorem countFrames_crc (n : Nat) (s : State) : (s.countFrames n).crc = s.crc := rfl
@[simp] theorem countFrames_acc (n : Nat) (s : State) : (s.countFrames n).acc = s.acc := rfl
@[simp] theorem countFrames_din (n : Nat) (s : State) : (s.countFrames n).din = s.din := rfl
@[simp] theorem countFrames_seq (n : Nat) (s : State) : (s.countFrames n).seq = s.seq := rfl
@[simp] theorem countFrames_gate (n : Nat) (s : State) : (s.countFrames n).gate = s.gate := rfl
@[simp] theorem countFrames_poll (n : Nat) (s : State) : (s.countFrames n).poll = s.poll := rfl
@[simp] theorem countFrames_sticky (n : Nat) (s : State) : (s.countFrames n).sticky = s.sticky := rfl
@[simp] theorem countFrames_counters (n : Nat) (s : State) : (s.countFrames n).counters
    = { s.counters with frame := s.counters.frame + BitVec.ofNat 16 n } := rfl
@[simp] theorem countFrames_out (n : Nat) (s : State) : (s.countFrames n).out = s.out := rfl
@[simp] theorem countFrames_log (n : Nat) (s : State) : (s.countFrames n).log = s.log := rfl
@[simp] theorem countFrames_wire (n : Nat) (s : State) : (s.countFrames n).wire = s.wire := rfl
@[simp] theorem countFrames_chan (n : Nat) (s : State) : (s.countFrames n).chan = s.chan := rfl
@[simp] theorem countFrames_draw (n : Nat) (s : State) : (s.countFrames n).draw = s.draw := rfl
@[simp] theorem countFrames_schedule (n : Nat) (s : State) : (s.countFrames n).schedule = s.schedule := rfl
@[simp] theorem countFrames_turns (n : Nat) (s : State) : (s.countFrames n).turns = s.turns := rfl

/-! A new `CRC_ACC` (40_crc.md R211 to R215). -/

@[simp] theorem setCrcAcc_params (v : Half) (s : State) : (s.setCrcAcc v).params = s.params := rfl
@[simp] theorem setCrcAcc_cmdIdx (v : Half) (s : State) : (s.setCrcAcc v).cmdIdx = s.cmdIdx := rfl
@[simp] theorem setCrcAcc_cmdPort (v : Half) (s : State) : (s.setCrcAcc v).cmdPort = s.cmdPort := rfl
@[simp] theorem setCrcAcc_cmdData (v : Half) (s : State) : (s.setCrcAcc v).cmdData = s.cmdData := rfl
@[simp] theorem setCrcAcc_now (v : Half) (s : State) : (s.setCrcAcc v).now = s.now := rfl
@[simp] theorem setCrcAcc_crc (v : Half) (s : State) : (s.setCrcAcc v).crc = { s.crc with crcAcc := v } := rfl
@[simp] theorem setCrcAcc_acc (v : Half) (s : State) : (s.setCrcAcc v).acc = s.acc := rfl
@[simp] theorem setCrcAcc_din (v : Half) (s : State) : (s.setCrcAcc v).din = s.din := rfl
@[simp] theorem setCrcAcc_seq (v : Half) (s : State) : (s.setCrcAcc v).seq = s.seq := rfl
@[simp] theorem setCrcAcc_gate (v : Half) (s : State) : (s.setCrcAcc v).gate = s.gate := rfl
@[simp] theorem setCrcAcc_poll (v : Half) (s : State) : (s.setCrcAcc v).poll = s.poll := rfl
@[simp] theorem setCrcAcc_sticky (v : Half) (s : State) : (s.setCrcAcc v).sticky = s.sticky := rfl
@[simp] theorem setCrcAcc_counters (v : Half) (s : State) : (s.setCrcAcc v).counters = s.counters := rfl
@[simp] theorem setCrcAcc_out (v : Half) (s : State) : (s.setCrcAcc v).out = s.out := rfl
@[simp] theorem setCrcAcc_log (v : Half) (s : State) : (s.setCrcAcc v).log = s.log := rfl
@[simp] theorem setCrcAcc_wire (v : Half) (s : State) : (s.setCrcAcc v).wire = s.wire := rfl
@[simp] theorem setCrcAcc_chan (v : Half) (s : State) : (s.setCrcAcc v).chan = s.chan := rfl
@[simp] theorem setCrcAcc_draw (v : Half) (s : State) : (s.setCrcAcc v).draw = s.draw := rfl
@[simp] theorem setCrcAcc_schedule (v : Half) (s : State) : (s.setCrcAcc v).schedule = s.schedule := rfl
@[simp] theorem setCrcAcc_turns (v : Half) (s : State) : (s.setCrcAcc v).turns = s.turns := rfl

/-! Entering the stop procedure (43_duty_sequencer.md R370). -/

@[simp] theorem enterStopping_params (w : Word) (s : State) : (s.enterStopping w).params = s.params := rfl
@[simp] theorem enterStopping_cmdIdx (w : Word) (s : State) : (s.enterStopping w).cmdIdx = s.cmdIdx := rfl
@[simp] theorem enterStopping_cmdPort (w : Word) (s : State) : (s.enterStopping w).cmdPort = s.cmdPort := rfl
@[simp] theorem enterStopping_cmdData (w : Word) (s : State) : (s.enterStopping w).cmdData = s.cmdData := rfl
@[simp] theorem enterStopping_now (w : Word) (s : State) : (s.enterStopping w).now = s.now := rfl
@[simp] theorem enterStopping_crc (w : Word) (s : State) : (s.enterStopping w).crc = s.crc := rfl
@[simp] theorem enterStopping_acc (w : Word) (s : State) : (s.enterStopping w).acc = s.acc := rfl
@[simp] theorem enterStopping_din (w : Word) (s : State) : (s.enterStopping w).din = s.din := rfl
@[simp] theorem enterStopping_seq (w : Word) (s : State) : (s.enterStopping w).seq
    = { s.seq with state := .stopping, stopPhase := .burst, stopCnt := 0, wait := w } := rfl
@[simp] theorem enterStopping_gate (w : Word) (s : State) : (s.enterStopping w).gate = s.gate := rfl
@[simp] theorem enterStopping_poll (w : Word) (s : State) : (s.enterStopping w).poll = s.poll := rfl
@[simp] theorem enterStopping_sticky (w : Word) (s : State) : (s.enterStopping w).sticky = s.sticky := rfl
@[simp] theorem enterStopping_counters (w : Word) (s : State) : (s.enterStopping w).counters = s.counters := rfl
@[simp] theorem enterStopping_out (w : Word) (s : State) : (s.enterStopping w).out = s.out := rfl
@[simp] theorem enterStopping_log (w : Word) (s : State) : (s.enterStopping w).log = s.log := rfl
@[simp] theorem enterStopping_wire (w : Word) (s : State) : (s.enterStopping w).wire = s.wire := rfl
@[simp] theorem enterStopping_chan (w : Word) (s : State) : (s.enterStopping w).chan = s.chan := rfl
@[simp] theorem enterStopping_draw (w : Word) (s : State) : (s.enterStopping w).draw = s.draw := rfl
@[simp] theorem enterStopping_schedule (w : Word) (s : State) : (s.enterStopping w).schedule = s.schedule := rfl
@[simp] theorem enterStopping_turns (w : Word) (s : State) : (s.enterStopping w).turns = s.turns := rfl

/-! The emergency stop's flag (R380). -/

@[simp] theorem setCancel_params (s : State) : s.setCancel.params = s.params := rfl
@[simp] theorem setCancel_cmdIdx (s : State) : s.setCancel.cmdIdx = s.cmdIdx := rfl
@[simp] theorem setCancel_cmdPort (s : State) : s.setCancel.cmdPort = s.cmdPort := rfl
@[simp] theorem setCancel_cmdData (s : State) : s.setCancel.cmdData = s.cmdData := rfl
@[simp] theorem setCancel_now (s : State) : s.setCancel.now = s.now := rfl
@[simp] theorem setCancel_crc (s : State) : s.setCancel.crc = s.crc := rfl
@[simp] theorem setCancel_acc (s : State) : s.setCancel.acc = s.acc := rfl
@[simp] theorem setCancel_din (s : State) : s.setCancel.din = s.din := rfl
@[simp] theorem setCancel_seq (s : State) : s.setCancel.seq = { s.seq with cancel := true } := rfl
@[simp] theorem setCancel_gate (s : State) : s.setCancel.gate = s.gate := rfl
@[simp] theorem setCancel_poll (s : State) : s.setCancel.poll = s.poll := rfl
@[simp] theorem setCancel_sticky (s : State) : s.setCancel.sticky = s.sticky := rfl
@[simp] theorem setCancel_counters (s : State) : s.setCancel.counters = s.counters := rfl
@[simp] theorem setCancel_out (s : State) : s.setCancel.out = s.out := rfl
@[simp] theorem setCancel_log (s : State) : s.setCancel.log = s.log := rfl
@[simp] theorem setCancel_wire (s : State) : s.setCancel.wire = s.wire := rfl
@[simp] theorem setCancel_chan (s : State) : s.setCancel.chan = s.chan := rfl
@[simp] theorem setCancel_draw (s : State) : s.setCancel.draw = s.draw := rfl
@[simp] theorem setCancel_schedule (s : State) : s.setCancel.schedule = s.schedule := rfl
@[simp] theorem setCancel_turns (s : State) : s.setCancel.turns = s.turns := rfl

/-! The gate taken by an accepted TRIGGER (R390). -/

@[simp] theorem takeGate_params (s : State) : s.takeGate.params = s.params := rfl
@[simp] theorem takeGate_cmdIdx (s : State) : s.takeGate.cmdIdx = s.cmdIdx := rfl
@[simp] theorem takeGate_cmdPort (s : State) : s.takeGate.cmdPort = s.cmdPort := rfl
@[simp] theorem takeGate_cmdData (s : State) : s.takeGate.cmdData = s.cmdData := rfl
@[simp] theorem takeGate_now (s : State) : s.takeGate.now = s.now := rfl
@[simp] theorem takeGate_crc (s : State) : s.takeGate.crc = s.crc := rfl
@[simp] theorem takeGate_acc (s : State) : s.takeGate.acc = s.acc := rfl
@[simp] theorem takeGate_din (s : State) : s.takeGate.din = s.din := rfl
@[simp] theorem takeGate_seq (s : State) : s.takeGate.seq = { s.seq with sessionGated := true } := rfl
@[simp] theorem takeGate_gate (s : State) : s.takeGate.gate = { s.gate with state := .busy } := rfl
@[simp] theorem takeGate_poll (s : State) : s.takeGate.poll = s.poll := rfl
@[simp] theorem takeGate_sticky (s : State) : s.takeGate.sticky = s.sticky := rfl
@[simp] theorem takeGate_counters (s : State) : s.takeGate.counters = s.counters := rfl
@[simp] theorem takeGate_out (s : State) : s.takeGate.out = s.out := rfl
@[simp] theorem takeGate_log (s : State) : s.takeGate.log = s.log := rfl
@[simp] theorem takeGate_wire (s : State) : s.takeGate.wire = s.wire := rfl
@[simp] theorem takeGate_chan (s : State) : s.takeGate.chan = s.chan := rfl
@[simp] theorem takeGate_draw (s : State) : s.takeGate.draw = s.draw := rfl
@[simp] theorem takeGate_schedule (s : State) : s.takeGate.schedule = s.schedule := rfl
@[simp] theorem takeGate_turns (s : State) : s.takeGate.turns = s.turns := rfl

/-! `AUTO_PAUSED` cleared (44_poller.md R430 to R434). -/

@[simp] theorem clearAutoPaused_params (s : State) : s.clearAutoPaused.params = s.params := rfl
@[simp] theorem clearAutoPaused_cmdIdx (s : State) : s.clearAutoPaused.cmdIdx = s.cmdIdx := rfl
@[simp] theorem clearAutoPaused_cmdPort (s : State) : s.clearAutoPaused.cmdPort = s.cmdPort := rfl
@[simp] theorem clearAutoPaused_cmdData (s : State) : s.clearAutoPaused.cmdData = s.cmdData := rfl
@[simp] theorem clearAutoPaused_now (s : State) : s.clearAutoPaused.now = s.now := rfl
@[simp] theorem clearAutoPaused_crc (s : State) : s.clearAutoPaused.crc = s.crc := rfl
@[simp] theorem clearAutoPaused_acc (s : State) : s.clearAutoPaused.acc = s.acc := rfl
@[simp] theorem clearAutoPaused_din (s : State) : s.clearAutoPaused.din = s.din := rfl
@[simp] theorem clearAutoPaused_seq (s : State) : s.clearAutoPaused.seq = { s.seq with autoPaused := false } := rfl
@[simp] theorem clearAutoPaused_gate (s : State) : s.clearAutoPaused.gate = s.gate := rfl
@[simp] theorem clearAutoPaused_poll (s : State) : s.clearAutoPaused.poll = s.poll := rfl
@[simp] theorem clearAutoPaused_sticky (s : State) : s.clearAutoPaused.sticky = s.sticky := rfl
@[simp] theorem clearAutoPaused_counters (s : State) : s.clearAutoPaused.counters = s.counters := rfl
@[simp] theorem clearAutoPaused_out (s : State) : s.clearAutoPaused.out = s.out := rfl
@[simp] theorem clearAutoPaused_log (s : State) : s.clearAutoPaused.log = s.log := rfl
@[simp] theorem clearAutoPaused_wire (s : State) : s.clearAutoPaused.wire = s.wire := rfl
@[simp] theorem clearAutoPaused_chan (s : State) : s.clearAutoPaused.chan = s.chan := rfl
@[simp] theorem clearAutoPaused_draw (s : State) : s.clearAutoPaused.draw = s.draw := rfl
@[simp] theorem clearAutoPaused_schedule (s : State) : s.clearAutoPaused.schedule = s.schedule := rfl
@[simp] theorem clearAutoPaused_turns (s : State) : s.clearAutoPaused.turns = s.turns := rfl

/-! The poller's next phase and wait (R435, R436). -/

@[simp] theorem setPollPhase_params (ph : PollPhase) (d : Nat) (s : State) : (s.setPollPhase ph d).params = s.params := rfl
@[simp] theorem setPollPhase_cmdIdx (ph : PollPhase) (d : Nat) (s : State) : (s.setPollPhase ph d).cmdIdx = s.cmdIdx := rfl
@[simp] theorem setPollPhase_cmdPort (ph : PollPhase) (d : Nat) (s : State) : (s.setPollPhase ph d).cmdPort = s.cmdPort :=
  rfl
@[simp] theorem setPollPhase_cmdData (ph : PollPhase) (d : Nat) (s : State) : (s.setPollPhase ph d).cmdData = s.cmdData :=
  rfl
@[simp] theorem setPollPhase_now (ph : PollPhase) (d : Nat) (s : State) : (s.setPollPhase ph d).now = s.now := rfl
@[simp] theorem setPollPhase_crc (ph : PollPhase) (d : Nat) (s : State) : (s.setPollPhase ph d).crc = s.crc := rfl
@[simp] theorem setPollPhase_acc (ph : PollPhase) (d : Nat) (s : State) : (s.setPollPhase ph d).acc = s.acc := rfl
@[simp] theorem setPollPhase_din (ph : PollPhase) (d : Nat) (s : State) : (s.setPollPhase ph d).din = s.din := rfl
@[simp] theorem setPollPhase_seq (ph : PollPhase) (d : Nat) (s : State) : (s.setPollPhase ph d).seq = s.seq := rfl
@[simp] theorem setPollPhase_gate (ph : PollPhase) (d : Nat) (s : State) : (s.setPollPhase ph d).gate = s.gate := rfl
@[simp] theorem setPollPhase_poll (ph : PollPhase) (d : Nat) (s : State) : (s.setPollPhase ph d).poll
    = { s.poll with phase := ph, wait := Word.ofTicks d } := rfl
@[simp] theorem setPollPhase_sticky (ph : PollPhase) (d : Nat) (s : State) : (s.setPollPhase ph d).sticky = s.sticky := rfl
@[simp] theorem setPollPhase_counters (ph : PollPhase) (d : Nat) (s : State) : (s.setPollPhase ph d).counters = s.counters :=
  rfl
@[simp] theorem setPollPhase_out (ph : PollPhase) (d : Nat) (s : State) : (s.setPollPhase ph d).out = s.out := rfl
@[simp] theorem setPollPhase_log (ph : PollPhase) (d : Nat) (s : State) : (s.setPollPhase ph d).log = s.log := rfl
@[simp] theorem setPollPhase_wire (ph : PollPhase) (d : Nat) (s : State) : (s.setPollPhase ph d).wire = s.wire := rfl
@[simp] theorem setPollPhase_chan (ph : PollPhase) (d : Nat) (s : State) : (s.setPollPhase ph d).chan = s.chan := rfl
@[simp] theorem setPollPhase_draw (ph : PollPhase) (d : Nat) (s : State) : (s.setPollPhase ph d).draw = s.draw := rfl
@[simp] theorem setPollPhase_schedule (ph : PollPhase) (d : Nat) (s : State) : (s.setPollPhase ph d).schedule = s.schedule :=
  rfl
@[simp] theorem setPollPhase_turns (ph : PollPhase) (d : Nat) (s : State) : (s.setPollPhase ph d).turns = s.turns := rfl

/-! The temporary window (R431). -/

@[simp] theorem openWindow_params (d : Nat) (s : State) : (s.openWindow d).params = s.params := rfl
@[simp] theorem openWindow_cmdIdx (d : Nat) (s : State) : (s.openWindow d).cmdIdx = s.cmdIdx := rfl
@[simp] theorem openWindow_cmdPort (d : Nat) (s : State) : (s.openWindow d).cmdPort = s.cmdPort := rfl
@[simp] theorem openWindow_cmdData (d : Nat) (s : State) : (s.openWindow d).cmdData = s.cmdData := rfl
@[simp] theorem openWindow_now (d : Nat) (s : State) : (s.openWindow d).now = s.now := rfl
@[simp] theorem openWindow_crc (d : Nat) (s : State) : (s.openWindow d).crc = s.crc := rfl
@[simp] theorem openWindow_acc (d : Nat) (s : State) : (s.openWindow d).acc = s.acc := rfl
@[simp] theorem openWindow_din (d : Nat) (s : State) : (s.openWindow d).din = s.din := rfl
@[simp] theorem openWindow_seq (d : Nat) (s : State) : (s.openWindow d).seq = s.seq := rfl
@[simp] theorem openWindow_gate (d : Nat) (s : State) : (s.openWindow d).gate = s.gate := rfl
@[simp] theorem openWindow_poll (d : Nat) (s : State) : (s.openWindow d).poll
    = { s.poll with tempActive := true, tempLeft := Word.ofTicks d } := rfl
@[simp] theorem openWindow_sticky (d : Nat) (s : State) : (s.openWindow d).sticky = s.sticky := rfl
@[simp] theorem openWindow_counters (d : Nat) (s : State) : (s.openWindow d).counters = s.counters := rfl
@[simp] theorem openWindow_out (d : Nat) (s : State) : (s.openWindow d).out = s.out := rfl
@[simp] theorem openWindow_log (d : Nat) (s : State) : (s.openWindow d).log = s.log := rfl
@[simp] theorem openWindow_wire (d : Nat) (s : State) : (s.openWindow d).wire = s.wire := rfl
@[simp] theorem openWindow_chan (d : Nat) (s : State) : (s.openWindow d).chan = s.chan := rfl
@[simp] theorem openWindow_draw (d : Nat) (s : State) : (s.openWindow d).draw = s.draw := rfl
@[simp] theorem openWindow_schedule (d : Nat) (s : State) : (s.openWindow d).schedule = s.schedule := rfl
@[simp] theorem openWindow_turns (d : Nat) (s : State) : (s.openWindow d).turns = s.turns := rfl

/-! A sample logged (R440). -/

@[simp] theorem recordSample_params (f : Telemetry) (s : State) : (s.recordSample f).params = s.params := rfl
@[simp] theorem recordSample_cmdIdx (f : Telemetry) (s : State) : (s.recordSample f).cmdIdx = s.cmdIdx := rfl
@[simp] theorem recordSample_cmdPort (f : Telemetry) (s : State) : (s.recordSample f).cmdPort = s.cmdPort := rfl
@[simp] theorem recordSample_cmdData (f : Telemetry) (s : State) : (s.recordSample f).cmdData = s.cmdData := rfl
@[simp] theorem recordSample_now (f : Telemetry) (s : State) : (s.recordSample f).now = s.now := rfl
@[simp] theorem recordSample_crc (f : Telemetry) (s : State) : (s.recordSample f).crc = s.crc := rfl
@[simp] theorem recordSample_acc (f : Telemetry) (s : State) : (s.recordSample f).acc = s.acc := rfl
@[simp] theorem recordSample_din (f : Telemetry) (s : State) : (s.recordSample f).din = s.din := rfl
@[simp] theorem recordSample_seq (f : Telemetry) (s : State) : (s.recordSample f).seq = s.seq := rfl
@[simp] theorem recordSample_gate (f : Telemetry) (s : State) : (s.recordSample f).gate = s.gate := rfl
@[simp] theorem recordSample_poll (f : Telemetry) (s : State) : (s.recordSample f).poll = s.poll := rfl
@[simp] theorem recordSample_sticky (f : Telemetry) (s : State) : (s.recordSample f).sticky = s.sticky := rfl
@[simp] theorem recordSample_counters (f : Telemetry) (s : State) : (s.recordSample f).counters
    = { s.counters with sample := s.counters.sample + 1 } := rfl
@[simp] theorem recordSample_out (f : Telemetry) (s : State) : (s.recordSample f).out = s.out := rfl
@[simp] theorem recordSample_log (f : Telemetry) (s : State) : (s.recordSample f).log = s.log ++ [.sample s.pollAge f] := rfl
@[simp] theorem recordSample_wire (f : Telemetry) (s : State) : (s.recordSample f).wire = s.wire := rfl
@[simp] theorem recordSample_chan (f : Telemetry) (s : State) : (s.recordSample f).chan = s.chan := rfl
@[simp] theorem recordSample_draw (f : Telemetry) (s : State) : (s.recordSample f).draw = s.draw := rfl
@[simp] theorem recordSample_schedule (f : Telemetry) (s : State) : (s.recordSample f).schedule = s.schedule := rfl
@[simp] theorem recordSample_turns (f : Telemetry) (s : State) : (s.recordSample f).turns = s.turns := rfl

end Sys2Proof.Machine.State
end

