-- ==== Sys2Proof/Laws/Ops.lean ====
section
/-! SUPPORT. One lemma per shared operation that says once everything it does: events, holds, the channel primitives, the
accumulator procedures. Later proofs cite these and do not unfold the operations. -/

namespace Sys2Proof.Machine

/-! ### Events -/

theorem raiseAll_eq (es : List Event) (s : State) :
    s.raiseAll es = { s with
      sticky := stickyAfter s.sticky es
      counters := es.foldl Counters.bump s.counters
      out := s.out ++ es.map .event } := by
  induction es generalizing s with
  | nil => simp [State.raiseAll, stickyAfter]
  | cons e es ih =>
    have := ih (s.raise e)
    simp only [State.raiseAll, List.foldl_cons, stickyAfter] at this ⊢
    rw [this]
    simp [State.raise]

/-- An event touches no counter of frames sent, frames found or samples. -/
@[simp] theorem bump_txFrame (c : Counters) (e : Event) : (c.bump e).txFrame = c.txFrame := by
  cases e <;> rfl

@[simp] theorem bump_frame (c : Counters) (e : Event) : (c.bump e).frame = c.frame := by
  cases e <;> rfl

@[simp] theorem bump_sample (c : Counters) (e : Event) : (c.bump e).sample = c.sample := by
  cases e <;> rfl

@[simp] theorem bumps_txFrame (es : List Event) (c : Counters) :
    (es.foldl Counters.bump c).txFrame = c.txFrame := by
  induction es generalizing c with
  | nil => rfl
  | cons e es ih => simp [ih]

/-- Raising keeps every sticky bit already set (10_state.md R80). -/
theorem stickyAfter_keeps (st : BitVec 11) (es : List Event) : st &&& stickyAfter st es = st := by
  induction es generalizing st with
  | nil => simp [stickyAfter]
  | cons e es ih =>
    have h := ih (st ||| e.stickyBit)
    simp only [stickyAfter, List.foldl_cons] at h ⊢
    apply BitVec.eq_of_getLsbD_eq
    intro i hi
    have hb := congrArg (fun b => b.getLsbD i) h
    simp only [BitVec.getLsbD_and, BitVec.getLsbD_or] at hb ⊢
    cases h1 : st.getLsbD i <;> simp_all

/-! ### Holds -/

theorem whenTable_ready {s : State} (h : s.crc.tblReady = true) (act : State → State) : s.whenTable act = act s := by
  simp [State.whenTable, h]

theorem whenTable_hold {s : State} (h : s.crc.tblReady = false) (act : State → State) : s.whenTable act = s := by
  simp [State.whenTable, h]

theorem lockFree_iff (s : State) : s.lockFree = true ↔ s.seq.state = .idle ∧ s.seq.cancel = false := by
  cases h : s.seq.state <;> simp [State.lockFree, h]

theorem whenLockFree_free {s : State} (h : s.seq.state = .idle) (hc : s.seq.cancel = false) (act : State → State) :
    s.whenLockFree act = act s := by
  simp [State.whenLockFree, (lockFree_iff s).2 ⟨h, hc⟩]

theorem whenLockFree_held {s : State} (h : s.seq.state ≠ .idle ∨ s.seq.cancel = true) (act : State → State) :
    s.whenLockFree act = s := by
  have : ¬ s.lockFree = true := by
    rw [lockFree_iff]
    rintro ⟨h1, h2⟩
    simp [h1, h2] at h
  simp [State.whenLockFree, this]

theorem withDin_tooLong {s : State} {n : Nat} (h : s.params.dinDepth < n) (act : List Byte → State → State) :
    s.withDin n act = (s.raise (.illegalCmd s.cmdWord)).retire := by
  simp [State.withDin, h]

theorem withDin_short {s : State} {n : Nat} (h : n ≤ s.params.dinDepth) (h' : s.din.length < n)
    (act : List Byte → State → State) : s.withDin n act = s := by
  simp [State.withDin, Nat.not_lt.2 h, h']

theorem withDin_take {s : State} {n : Nat} (h : n ≤ s.params.dinDepth) (h' : n ≤ s.din.length)
    (act : List Byte → State → State) : s.withDin n act = act (s.din.take n) (s.dinDrop n) := by
  simp [State.withDin, Nat.not_lt.2 h, Nat.not_lt.2 h']

/-! ### The channel -/

/-- The count of frames written with outcome `o`. -/
def okCount (o : IoOutcome) (n : Half) : Half :=
  match o with
  | .ok => n + 1
  | .err => n

/-- Everything a frame written to the channel changes (20_memory.md R110, 41_framer.md R265). -/
theorem sendFrame_eq (f : List Byte) (s : State) :
    s.sendFrame f = { s with
      wire := s.wire ++ [.write f s.writeOutcome]
      chan := { s.chan with tx := s.chan.tx ++ sentOf f s.draw.write }
      counters := { s.counters with txFrame := okCount s.writeOutcome s.counters.txFrame } } := by
  simp only [State.sendFrame, State.chanWrite, State.emitWire]
  cases s.writeOutcome <;> rfl

theorem sendDuty_eq (d : Int) (s : State) :
    s.sendDuty d = { s with
      seq := { s.seq with duty := BitVec.ofInt 8 d, ctrlMode := .duty }
      wire := s.wire ++ [.write (s.dutyFrame d) s.writeOutcome]
      chan := { s.chan with tx := s.chan.tx ++ sentOf (s.dutyFrame d) s.draw.write }
      counters := { s.counters with txFrame := okCount s.writeOutcome s.counters.txFrame } } := by
  rw [State.sendDuty, sendFrame_eq]
  rfl

theorem sendCurrentZero_eq (s : State) :
    s.sendCurrentZero = { s with
      seq := { s.seq with ctrlMode := .current }
      wire := s.wire ++ [.write s.currentZeroFrame s.writeOutcome]
      chan := { s.chan with tx := s.chan.tx ++ sentOf s.currentZeroFrame s.draw.write }
      counters := { s.counters with txFrame := okCount s.writeOutcome s.counters.txFrame } } := by
  rw [State.sendCurrentZero, sendFrame_eq]
  rfl

/-- Everything the report of a write changes (60_exceptions.md R500). -/
theorem reportWrite_eq (o : IoOutcome) (a : Agent) (s : State) :
    s.reportWrite o a = { s with
      sticky := match o with | .ok => s.sticky | .err => s.sticky ||| 0x020
      counters := match o with | .ok => s.counters | .err => { s.counters with ioErr := s.counters.ioErr + 1 }
      out := match o with | .ok => s.out | .err => s.out ++ [.event (.ioErrWrite a)] } := by
  cases o <;> rfl

theorem writeOutcome_ok {s : State} (h : s.draw.write = .ok) : s.writeOutcome = .ok := by
  simp [State.writeOutcome, outcomeOf, h]

theorem writeOutcome_err {s : State} {k : Nat} (h : s.draw.write = .err k) : s.writeOutcome = .err := by
  simp [State.writeOutcome, outcomeOf, h]

/-- Everything a read changes (20_memory.md R111). -/
theorem chanRead_eq (s : State) :
    s.chanRead = { s with
      wire := s.wire ++ [.read s.readResult]
      chan := match s.draw.read with
        | .err => s.chan
        | .bytes n => { s.chan with rx := s.chan.rx.drop (min n s.params.readMax) } } := by
  unfold State.chanRead
  cases h : s.draw.read <;> simp [State.emitWire]

/-- Everything a flush changes (R111). -/
theorem chanFlush_eq (s : State) :
    s.chanFlush = { s with
      wire := s.wire ++ [.flush]
      chan := { s.chan with rx := [], tx := s.chan.tx.take s.draw.flushKeep } } := rfl

/-! ### The accumulator -/

theorem accPush_fits {s : State} {b : List Byte} (h : s.acc.length + b.length ≤ s.params.rxCap) :
    s.accPush b = { s with acc := s.acc ++ b } := by
  simp [State.accPush, show b.length ≤ s.params.rxCap - s.acc.length by omega]

theorem accPush_overflows {s : State} {b : List Byte} (h : s.params.rxCap - s.acc.length < b.length) :
    s.accPush b = State.raise (.rxOvf (b.length - (s.params.rxCap - s.acc.length)))
      { s with acc := s.acc ++ b.take (s.params.rxCap - s.acc.length) } := by
  simp [State.accPush, Nat.not_le.2 h]

/-- Everything the threshold clear changes (41_framer.md R261). -/
theorem accTrim_eq (s : State) :
    s.accTrim =
      if s.params.rxClearThreshold < s.acc.length then
        { s with
          acc := []
          sticky := s.sticky ||| 0x200
          counters := { s.counters with rxClr := s.counters.rxClr + 1 }
          out := s.out ++ [.event (.rxClr s.acc.length)] }
      else s := rfl

/-- Everything a scan changes (R261): the events of `extract` in order, the frames counted, and then the threshold clear. -/
theorem accScan_eq (s : State) :
    s.accScan = State.accTrim { s with
      acc := (extract s.crc.tbl s.acc).rem
      sticky := stickyAfter s.sticky (extract s.crc.tbl s.acc).ev
      counters :=
        { (extract s.crc.tbl s.acc).ev.foldl Counters.bump s.counters with
          frame := ((extract s.crc.tbl s.acc).ev.foldl Counters.bump s.counters).frame
            + BitVec.ofNat 16 (extract s.crc.tbl s.acc).out.length }
      out := s.out ++ (extract s.crc.tbl s.acc).ev.map .event } := by
  simp only [State.accScan, raiseAll_eq, State.countFrames]

/-! ### The start of a step -/

@[simp] theorem begin_params (s : State) : s.begin.params = s.params := by unfold State.begin; split <;> rfl
@[simp] theorem begin_cmdIdx (s : State) : s.begin.cmdIdx = s.cmdIdx := by unfold State.begin; split <;> rfl
@[simp] theorem begin_cmdPort (s : State) : s.begin.cmdPort = s.cmdPort := by unfold State.begin; split <;> rfl
@[simp] theorem begin_cmdData (s : State) : s.begin.cmdData = s.cmdData := by unfold State.begin; split <;> rfl
@[simp] theorem begin_now (s : State) : s.begin.now = s.now := by unfold State.begin; split <;> rfl
@[simp] theorem begin_crc (s : State) : s.begin.crc = s.crc := by unfold State.begin; split <;> rfl
@[simp] theorem begin_acc (s : State) : s.begin.acc = s.acc := by unfold State.begin; split <;> rfl
@[simp] theorem begin_din (s : State) : s.begin.din = s.din := by unfold State.begin; split <;> rfl
@[simp] theorem begin_seq (s : State) : s.begin.seq = s.seq := by unfold State.begin; split <;> rfl
@[simp] theorem begin_gate (s : State) : s.begin.gate = s.gate := by unfold State.begin; split <;> rfl
@[simp] theorem begin_poll (s : State) : s.begin.poll = s.poll := by unfold State.begin; split <;> rfl
@[simp] theorem begin_sticky (s : State) : s.begin.sticky = s.sticky := by unfold State.begin; split <;> rfl
@[simp] theorem begin_counters (s : State) : s.begin.counters = s.counters := by unfold State.begin; split <;> rfl
@[simp] theorem begin_out (s : State) : s.begin.out = s.out := by unfold State.begin; split <;> rfl
@[simp] theorem begin_log (s : State) : s.begin.log = s.log := by unfold State.begin; split <;> rfl
@[simp] theorem begin_wire (s : State) : s.begin.wire = s.wire := by unfold State.begin; split <;> rfl
@[simp] theorem begin_chan (s : State) : s.begin.chan = s.chan := by unfold State.begin; split <;> rfl

/-- A step whose turn the schedule says: the turn is used up, its draw is ready, and its move runs. -/
theorem step_scheduled {s : State} {m : Move} {d : ChanDraw} {ts : List Turn}
    (h : s.schedule = { move := m, draw := d } :: ts) : step s = runMove m { s with schedule := ts, draw := d } := by
  simp [step, State.nextTurn, State.begin, h]

end Sys2Proof.Machine
end

