-- ==== Sys2Proof/Laws/Crc.lean ====
section
/-! SUPPORT. The CRC table, the running CRC and the table generator, each function said once (40_crc.md R200 to R203). -/

namespace Sys2Proof.Machine

theorem romTable_length : romTable.length = 256 := by simp [romTable]

theorem tblAt_romTable {i : Nat} (h : i < 256) : tblAt romTable i = tableEntry i := by
  simp [tblAt, romTable, h]

theorem crcRun_append (tbl : List Half) (crc : Half) (a b : List Byte) :
    crcRun tbl crc (a ++ b) = crcRun tbl (crcRun tbl crc a) b := List.foldl_append ..

theorem tableIters_add (m n : Nat) (crc c : Half) :
    tableIters (m + n) crc c = tableIters n (tableIters m crc c).1 (tableIters m crc c).2 := by
  induction m generalizing crc c with
  | zero => simp [tableIters]
  | succ m ih =>
    rw [Nat.add_right_comm]
    exact ih _ _

theorem genRun_add (m n : Nat) (c : CrcUnit) : genRun (m + n) c = genRun n (genRun m c) := by
  induction m generalizing c with
  | zero => simp [genRun]
  | succ m ih =>
    rw [Nat.add_right_comm]
    exact ih _

/-- A generator step inside an entry (R201). -/
theorem genStep_inside {c : CrcUnit} (h : c.genJ ≠ 7) :
    c.genStep = { c with
      genJ := c.genJ + 1, genCrc := tableIterCrc c.genCrc c.genC, genC := c.genC <<< 1 } := by
  simp only [CrcUnit.genStep, if_neg h]

/-- The generator step that writes an entry before the last (R201). -/
theorem genStep_entry {c : CrcUnit} (h : c.genJ = 7) (hi : c.genI ≠ 255) :
    c.genStep = { c with
      tbl := c.tbl.set c.genI.toNat (tableIterCrc c.genCrc c.genC)
      genI := c.genI + 1
      genJ := 0
      genCrc := 0
      genC := entryStart (c.genI.toNat + 1) } := by
  simp only [CrcUnit.genStep, if_pos h, if_neg hi]

/-- The generator step that writes the last entry (R201, R202). -/
theorem genStep_last {c : CrcUnit} (h : c.genJ = 7) (hi : c.genI = 255) :
    c.genStep = { c with
      tbl := c.tbl.set c.genI.toNat (tableIterCrc c.genCrc c.genC), genI := 256, genJ := 8, tblReady := true } := by
  simp only [CrcUnit.genStep, if_pos h, if_pos hi]

/-- One bit of the bit-serial CRC is linear (R205). -/
theorem serialBit_xor (a b : Half) : serialBit (a ^^^ b) = serialBit a ^^^ serialBit b := by
  have hs : (a ^^^ b) <<< 1 = (a <<< 1) ^^^ (b <<< 1) := by
    apply BitVec.eq_of_getLsbD_eq
    intro i hi
    simp
    grind
  unfold serialBit
  rw [BitVec.msb_xor, hs]
  cases a.msb <;> cases b.msb <;> simp
  · ac_rfl
  · ac_rfl
  · apply BitVec.eq_of_getLsbD_eq
    intro i hi
    simp
    grind

end Sys2Proof.Machine
end

