-- ==== Sys2Proof/Laws/Encoding.lean ====
section
/-! SUPPORT. The field lemmas of command words (30_encoding.md R140, R141): what a field of an assembled word is, and the
operand ranges as plain inequalities. -/

namespace Sys2Proof

@[simp] theorem opField_cmdWordOf (op a : Byte) (b : Half) : opField (cmdWordOf op a b) = op := by
  ext j hj
  simp [opField, cmdWordOf]
  grind

@[simp] theorem aField_cmdWordOf (op a : Byte) (b : Half) : aField (cmdWordOf op a b) = a := by
  ext j hj
  simp [aField, cmdWordOf]
  grind

@[simp] theorem bField_cmdWordOf (op a : Byte) (b : Half) : bField (cmdWordOf op a b) = b := by
  ext j hj
  simp [bField, cmdWordOf]
  grind

@[simp] theorem fitsU8_iff (i : Nat) : fitsU8 i = true ↔ i < 256 := decide_eq_true_iff

@[simp] theorem fitsU16_iff (n : Nat) : fitsU16 n = true ↔ n < 65536 := decide_eq_true_iff

@[simp] theorem fitsPct_iff (t : Int) : fitsPct t = true ↔ -128 ≤ t ∧ t ≤ 127 := by
  simp only [fitsPct, Bool.and_eq_true, decide_eq_true_iff]

@[simp] theorem fitsSpct_iff (x : Int) : fitsSpct x = true ↔ -32768 ≤ x ∧ x ≤ 32767 := by
  simp only [fitsSpct, Bool.and_eq_true, decide_eq_true_iff]

/-- The four field readings are in range (R141). -/
theorem u8Of_lt (a : Byte) : u8Of a < 256 := a.isLt

theorem u16Of_lt (b : Half) : u16Of b < 65536 := b.isLt

theorem pctOf_range (a : Byte) : -128 ≤ pctOf a ∧ pctOf a ≤ 127 := by
  have h1 := BitVec.toInt_lt (x := a)
  have h2 := BitVec.le_toInt (x := a)
  simp only [pctOf]
  omega

theorem spctOf_range (b : Half) : -32768 ≤ spctOf b ∧ spctOf b ≤ 32767 := by
  have h1 := BitVec.toInt_lt (x := b)
  have h2 := BitVec.le_toInt (x := b)
  simp only [spctOf]
  omega

/-- A number of an operand's range survives the field it is stored in. -/
theorem toNat_ofNat8 {i : Nat} (h : i < 256) : (BitVec.ofNat 8 i).toNat = i := by
  simpa using Nat.mod_eq_of_lt h

theorem toNat_ofNat16 {n : Nat} (h : n < 65536) : (BitVec.ofNat 16 n).toNat = n := by
  simpa using Nat.mod_eq_of_lt h

theorem toInt_ofInt8 {t : Int} (h : -128 ≤ t ∧ t ≤ 127) : (BitVec.ofInt 8 t).toInt = t := by
  rw [BitVec.toInt_ofInt]
  exact Int.bmod_eq_of_le (by simp; omega) (by simp; omega)

theorem toInt_ofInt16 {x : Int} (h : -32768 ≤ x ∧ x ≤ 32767) : (BitVec.ofInt 16 x).toInt = x := by
  rw [BitVec.toInt_ofInt]
  exact Int.bmod_eq_of_le (by simp; omega) (by simp; omega)

theorem toInt_ofInt32 {x : Int} (h : -2147483648 ≤ x ∧ x ≤ 2147483647) : (BitVec.ofInt 32 x).toInt = x := by
  rw [BitVec.toInt_ofInt]
  exact Int.bmod_eq_of_le (by simp; omega) (by simp; omega)

end Sys2Proof
end

