-- ==== Sys2Proof/Laws/Extract.lean ====
section
/-! SUPPORT. One pass of the synchronizer's loop in each of its cases (41_framer.md R250), the length facts of frames, and
the events of a scan. Proofs about `extract` cite these and do not unfold the loop. -/

namespace Sys2Proof.Machine

/-- The length of the short frame whose start byte is at `i` (R250, `fl`). -/
def frameLen (buf : List Byte) (i : Nat) : Nat := 2 + (byteAt buf (i + 1)).toNat + 2 + 1

section
variable (tbl : List Half) (buf : List Byte) (fuel i last : Nat) (out : List (List Byte)) (ev : List Event)

theorem extractLoop_end (h : buf.length ≤ i) :
    extractLoop tbl buf (fuel + 1) i last out ev = ⟨out, ev, buf.drop last⟩ := by
  rw [extractLoop, if_pos h]

theorem extractLoop_skip (h : i < buf.length) (h2 : byteAt buf i ≠ 0x02) :
    extractLoop tbl buf (fuel + 1) i last out ev = extractLoop tbl buf fuel (i + 1) last out ev := by
  rw [extractLoop, if_neg (Nat.not_le.2 h), if_pos h2]

theorem extractLoop_shortHeader (h : i < buf.length) (h2 : byteAt buf i = 0x02) (h3 : buf.length < i + 2) :
    extractLoop tbl buf (fuel + 1) i last out ev = ⟨out, ev, buf.drop i⟩ := by
  rw [extractLoop, if_neg (Nat.not_le.2 h), if_neg (not_not.2 h2), if_pos h3]

theorem extractLoop_incomplete (h2 : byteAt buf i = 0x02) (h3 : i + 2 ≤ buf.length)
    (h4 : buf.length < i + frameLen buf i) :
    extractLoop tbl buf (fuel + 1) i last out ev = ⟨out, ev, buf.drop i⟩ := by
  unfold frameLen at h4
  rw [extractLoop, if_neg (by omega), if_neg (not_not.2 h2), if_neg (by omega)]
  exact if_pos h4

theorem extractLoop_badEnd (h2 : byteAt buf i = 0x02) (h4 : i + frameLen buf i ≤ buf.length)
    (h5 : byteAt buf (i + frameLen buf i - 1) ≠ 0x03) :
    extractLoop tbl buf (fuel + 1) i last out ev
      = extractLoop tbl buf fuel (i + 1) last out (ev ++ [.termErr i]) := by
  unfold frameLen at h4 h5
  rw [extractLoop, if_neg (by omega), if_neg (not_not.2 h2), if_neg (by omega)]
  simp only [if_neg (Nat.not_lt.2 h4), if_pos h5]

theorem extractLoop_found (h2 : byteAt buf i = 0x02) (h4 : i + frameLen buf i ≤ buf.length)
    (h5 : byteAt buf (i + frameLen buf i - 1) = 0x03)
    (h6 : crc16 tbl (slice buf (i + 2) (i + 2 + (byteAt buf (i + 1)).toNat))
      = be16 buf (i + 2 + (byteAt buf (i + 1)).toNat)) :
    extractLoop tbl buf (fuel + 1) i last out ev
      = extractLoop tbl buf fuel (i + frameLen buf i) (i + frameLen buf i)
          (out ++ [slice buf (i + 2) (i + 2 + (byteAt buf (i + 1)).toNat)]) ev := by
  unfold frameLen at *
  rw [extractLoop, if_neg (by omega), if_neg (not_not.2 h2), if_neg (by omega)]
  simp only [if_neg (Nat.not_lt.2 h4), h5, ne_eq, not_true_eq_false, if_false, if_pos h6]

theorem extractLoop_badCrc (h2 : byteAt buf i = 0x02) (h4 : i + frameLen buf i ≤ buf.length)
    (h5 : byteAt buf (i + frameLen buf i - 1) = 0x03)
    (h6 : crc16 tbl (slice buf (i + 2) (i + 2 + (byteAt buf (i + 1)).toNat))
      ≠ be16 buf (i + 2 + (byteAt buf (i + 1)).toNat)) :
    extractLoop tbl buf (fuel + 1) i last out ev
      = extractLoop tbl buf fuel (i + 1) last out (ev ++ [.crcErr i]) := by
  unfold frameLen at *
  rw [extractLoop, if_neg (by omega), if_neg (not_not.2 h2), if_neg (by omega)]
  simp only [if_neg (Nat.not_lt.2 h4), h5, ne_eq, not_true_eq_false, if_false, if_neg h6]

/-- What the loop keeps is never longer than the buffer. -/
theorem extractLoop_rem_length : (extractLoop tbl buf fuel i last out ev).rem.length ≤ buf.length := by
  induction fuel generalizing i last out ev with
  | zero => simp [extractLoop]
  | succ f ih =>
    unfold extractLoop
    repeat' (first | split | dsimp only)
    all_goals (first | exact ih _ _ _ _ | simp)

end

/-- A byte past a prefix is a byte of the rest. -/
theorem byteAt_append_right (a b : List Byte) (i : Nat) : byteAt (a ++ b) (a.length + i) = byteAt b i := by
  simp [byteAt, List.getD_eq_getElem?_getD, List.getElem?_append_right]

/-- The scan passes over bytes that start no frame without a report (R257). -/
theorem extractLoop_skipsPrefix (tbl : List Half) (rest : List Byte) (pre seen : List Byte) (fuel last : Nat)
    (out : List (List Byte)) (ev : List Event) (h : ∀ b ∈ pre, b ≠ 0x02) :
    extractLoop tbl (seen ++ (pre ++ rest)) (fuel + pre.length) seen.length last out ev
      = extractLoop tbl (seen ++ (pre ++ rest)) fuel (seen.length + pre.length) last out ev := by
  induction pre generalizing seen with
  | nil => rfl
  | cons b pre ih =>
    have hb : byteAt (seen ++ (b :: pre ++ rest)) seen.length ≠ 0x02 := by
      have hr := byteAt_append_right seen (b :: pre ++ rest) 0
      rw [Nat.add_zero] at hr
      rw [hr]
      simpa [byteAt] using h b (by simp)
    have ht := ih (seen ++ [b]) (fun x hx => h x (by simp [hx]))
    simp only [List.append_assoc, List.singleton_append, List.length_append, List.length_singleton] at ht
    have hstep := extractLoop_skip tbl (seen ++ (b :: pre ++ rest)) (fuel + pre.length) seen.length last out ev
      (by simp) hb
    rw [show fuel + (b :: pre).length = fuel + pre.length + 1 by simp [Nat.add_assoc], hstep]
    simp only [List.cons_append] at ht ⊢
    rw [ht, List.length_cons, Nat.add_assoc, Nat.add_comm 1]

/-- Two big-endian bytes read back as the value they were cut from (20_memory.md R103, R104). -/
theorem hiByte_append_loByte (v : Half) : hiByte v ++ loByte v = v := by
  apply BitVec.eq_of_getLsbD_eq
  intro i hi
  simp only [hiByte, loByte, BitVec.getLsbD_append, BitVec.getLsbD_extractLsb']
  split <;> rename_i h
  · simp [h]
  · simp [show i - 8 < 8 by omega, show 8 + (i - 8) = i by omega]

theorem encodeFrame_length_short {tbl : List Half} {p : List Byte} (h : p.length ≤ 255) :
    (encodeFrame tbl p).length = 5 + p.length := by
  simp only [encodeFrame, frameHeader, if_pos h, bytesBe16, List.length_append, List.length_cons, List.length_nil]
  omega

theorem encodeFrame_length_long {tbl : List Half} {p : List Byte} (h : 255 < p.length) :
    (encodeFrame tbl p).length = 6 + p.length := by
  simp only [encodeFrame, frameHeader, if_neg (Nat.not_le.2 h), bytesBe16, List.length_append, List.length_cons,
    List.length_nil]
  omega

/-- The scan's events are frame errors (R250). -/
theorem extractLoop_frameErrors (tbl : List Half) (buf : List Byte) (fuel i last : Nat) (out : List (List Byte))
    (ev : List Event) (h : ∀ e ∈ ev, ∃ k, frameErrorOffset e = some k) :
    ∀ e ∈ (extractLoop tbl buf fuel i last out ev).ev, ∃ k, frameErrorOffset e = some k := by
  have more : ∀ {es : List Event} {e : Event} {k : Nat}, (∀ e ∈ es, ∃ k, frameErrorOffset e = some k) →
      frameErrorOffset e = some k → ∀ e' ∈ es ++ [e], ∃ k, frameErrorOffset e' = some k := by
    intro es e k hs he e' he'
    rcases List.mem_append.1 he' with h' | h'
    · exact hs e' h'
    · exact ⟨k, by rw [List.mem_singleton.1 h', he]⟩
  induction fuel generalizing i last out ev with
  | zero => exact h
  | succ fuel ih =>
    unfold extractLoop
    split
    · exact h
    split
    · exact ih _ _ _ _ h
    split
    · exact h
    dsimp only
    split
    · exact h
    split
    · exact ih _ _ _ _ (more h (e := .termErr i) rfl)
    split
    · exact ih _ _ _ _ h
    · exact ih _ _ _ _ (more h (e := .crcErr i) rfl)

theorem extract_frameErrors (tbl : List Half) (buf : List Byte) :
    ∀ e ∈ (extract tbl buf).ev, ∃ k, frameErrorOffset e = some k :=
  extractLoop_frameErrors tbl buf buf.length 0 0 [] [] (by simp)

/-- What the events of a scan do to the counters (R500). -/
theorem bump_frameErrors (es : List Event) (h : ∀ e ∈ es, ∃ k, frameErrorOffset e = some k) (c : Counters) :
    es.foldl Counters.bump c = { c with
      crcErr := c.crcErr + BitVec.ofNat 16 (crcErrCount es)
      termErr := c.termErr + BitVec.ofNat 16 (termErrCount es) } := by
  induction es generalizing c with
  | nil => simp [crcErrCount, termErrCount]
  | cons e es ih =>
    rw [List.foldl_cons, ih (fun e he => h e (by simp [he]))]
    obtain ⟨k, hk⟩ := h e (by simp)
    cases e <;> simp [frameErrorOffset] at hk <;> simp [Counters.bump, crcErrCount, termErrCount, Event.code]
    all_goals (rw [BitVec.ofNat_add]; ac_rfl)

end Sys2Proof.Machine
end

