-- ==== Sys2Proof/Laws/Poller.lean ====
section
/-! SUPPORT. The steps of the `POLL` agent, each said once (44_poller.md). -/

namespace Sys2Proof.Machine

/-- The one inversion lemma of a `POLL` step. -/
theorem pollMove_cases {s t : State} (h : s.pollMove = some t) :
    (s.poll.tempActive = true ∧ s.poll.tempLeft = 0 ∧ s.poll.state ≠ .stopped ∧ t = s.pollStop)
    ∨ (s.poll.state = .running ∧ s.poll.wait = 0 ∧ s.crc.tblReady = true ∧ s.windowExpired = false
        ∧ ((s.poll.phase = .tick ∧ t = s.pollSend) ∨ (s.poll.phase = .resp ∧ t = s.pollRead))) := by
  unfold State.pollMove at h
  split at h
  · simp_all [State.windowExpired, elapsed]
  · split at h
    · cases hp : s.poll.phase <;> simp_all [State.pollUsesChannel, elapsed]
    · simp at h

/-- When `POLL` has a step: its own registers and `TBL_READY` say (70_reset_and_hazards.md R572). -/
theorem pollMove_isSome (s : State) :
    s.pollMove.isSome = (s.windowExpired && s.poll.state != .stopped || s.pollUsesChannel) := by
  unfold State.pollMove
  split
  · simp_all
  · split
    · cases s.poll.phase <;> simp_all
    · simp_all

/-- A due tick of a running poller takes its phase's step. -/
theorem pollMove_due {s : State} (ht : s.crc.tblReady = true) (hr : s.poll.state = .running) (hw : s.poll.wait = 0)
    (hx : s.poll.tempActive = false ∨ s.poll.tempLeft ≠ 0) :
    s.pollMove = match s.poll.phase with | .tick => some s.pollSend | .resp => some s.pollRead := by
  have hx' : s.windowExpired = false := by
    rcases hx with h | h <;> simp_all [State.windowExpired, elapsed]
  simp only [State.pollMove, State.pollUsesChannel, hx', hr, hw, ht, elapsed]
  cases s.poll.phase <;> rfl

/-- Everything `poll_stop()` changes on a poller that is not stopped (R434). -/
theorem pollStop_eq {s : State} (h : s.poll.state ≠ .stopped) :
    s.pollStop = { s with
      poll := { s.poll with state := .stopped, phase := .tick, wait := 0, tempActive := false, tempLeft := 0 }
      seq := { s.seq with autoPaused := false }
      log := s.log ++ [.logClose (s.now - s.poll.t0)] } := by
  simp only [State.pollStop, if_neg h]
  rfl

/-- Everything the send step changes (R435). -/
theorem pollSend_eq (s : State) :
    s.pollSend = { s with
      wire := s.wire ++ [.write s.requestFrame s.writeOutcome]
      chan := { s.chan with tx := s.chan.tx ++ sentOf s.requestFrame s.draw.write }
      poll := match s.writeOutcome with
        | .ok => { s.poll with phase := .resp, wait := Word.ofTicks s.params.respWait }
        | .err => { s.poll with phase := .tick, wait := Word.ofTicks s.params.backoff }
      counters := match s.writeOutcome with
        | .ok => { s.counters with txFrame := s.counters.txFrame + 1 }
        | .err => { s.counters with ioErr := s.counters.ioErr + 1 }
      sticky := match s.writeOutcome with | .ok => s.sticky | .err => s.sticky ||| 0x020
      out := match s.writeOutcome with | .ok => s.out | .err => s.out ++ [.event (.ioErrWrite .poll)] } := by
  simp only [State.pollSend, sendFrame_eq]
  cases s.writeOutcome <;> rfl

/-- Everything a failed read changes (R436). -/
theorem pollReadFailed_eq (s : State) :
    s.pollReadFailed = { s with
      poll := { s.poll with phase := .tick, wait := Word.ofTicks s.params.backoff }
      sticky := s.sticky ||| 0x040
      counters := { s.counters with ioErr := s.counters.ioErr + 1 }
      out := s.out ++ [.event (.ioErrRead .poll)] } := rfl

/-- What decoding the payloads of a read changes (R440): `LOG`, `OUT`, `STICKY` and two counters. -/
theorem pollPayloads_eq (ps : List (List Byte)) (s : State) :
    s.pollPayloads ps = { s with
      log := s.log ++ sampleRecords (s.now - s.poll.t0) ps
      out := s.out ++ nullEvents ps
      sticky := (s.pollPayloads ps).sticky
      counters := { s.counters with
        sample := s.counters.sample + BitVec.ofNat 16 (sampleRecords (s.now - s.poll.t0) ps).length
        decodeNull := s.counters.decodeNull + BitVec.ofNat 16 (nullEvents ps).length } } := by
  induction ps generalizing s with
  | nil => simp [State.pollPayloads, sampleRecords, nullEvents]
  | cons p ps ih =>
    have h := ih (s.pollPayload p)
    have hf : s.pollPayloads (p :: ps) = (s.pollPayload p).pollPayloads ps := rfl
    rw [hf, h]
    cases hd : decodeGv p with
    | sample f =>
      have hp : s.pollPayload p = s.recordSample f := by simp [State.pollPayload, hd]
      rw [hp]
      simp [sampleRecords, nullEvents, hd, State.pollAge, State.recordSample, State.emitLog]
      rw [BitVec.ofNat_add]
      ac_rfl
    | null q r =>
      have hp : s.pollPayload p = s.raise (.decodeNull q r) := by simp [State.pollPayload, hd]
      rw [hp]
      simp [sampleRecords, nullEvents, hd, Counters.bump, State.raise]
      rw [BitVec.ofNat_add]
      ac_rfl

/-- Decoding payloads keeps every sticky bit already set. -/
theorem pollPayloads_sticky (ps : List (List Byte)) (s : State) : s.sticky &&& (s.pollPayloads ps).sticky = s.sticky := by
  induction ps generalizing s with
  | nil => simp [State.pollPayloads]
  | cons p ps ih =>
    have h := ih (s.pollPayload p)
    have hf : s.pollPayloads (p :: ps) = (s.pollPayload p).pollPayloads ps := rfl
    rw [hf]
    have hk : ∃ k, (s.pollPayload p).sticky = s.sticky ||| k := by
      cases hd : decodeGv p with
      | sample f => exact ⟨0, by simp [State.pollPayload, hd]⟩
      | null q r => exact ⟨(Event.decodeNull q r).stickyBit, by simp [State.pollPayload, hd]⟩
    obtain ⟨k, hk⟩ := hk
    rw [hk] at h
    apply BitVec.eq_of_getLsbD_eq
    intro i hi
    have hb := congrArg (fun b => b.getLsbD i) h
    simp only [BitVec.getLsbD_and, BitVec.getLsbD_or] at hb ⊢
    cases h1 : s.sticky.getLsbD i <;> simp_all

/-- The sticky bits after the payloads of a read are decoded (R440, R500): `DECODE_NULL`'s is set if any gives a null. -/
theorem pollPayloads_stickyBit (ps : List (List Byte)) (s : State) :
    (s.pollPayloads ps).sticky = if nullEvents ps = [] then s.sticky else s.sticky ||| 0x010 := by
  induction ps generalizing s with
  | nil => simp [State.pollPayloads, nullEvents]
  | cons p ps ih =>
    have hf : s.pollPayloads (p :: ps) = (s.pollPayload p).pollPayloads ps := rfl
    rw [hf, ih]
    cases hd : decodeGv p with
    | sample f => simp [State.pollPayload, State.recordSample, State.emitLog, nullEvents, hd]
    | null q r =>
      have hb : (Event.decodeNull q r).stickyBit = 0x010 := rfl
      simp [State.pollPayload, nullEvents, hd, hb, BitVec.or_assoc]

end Sys2Proof.Machine
end

