-- ==== Sys2Proof/Laws/Sequencer.lean ====
section
/-! SUPPORT. The session operations and the steps of the `SEQ` agent, each said once: what a step needs, and everything it
changes (43_duty_sequencer.md). -/

namespace Sys2Proof.Machine

/-! ### Session operations -/

theorem clamp_saturates (m : Nat) (t : Int) : clamp t (-(m : Int)) m = saturate m t := by
  unfold clamp saturate
  split
  · omega
  · split <;> omega

theorem rampTarget_eq (p : Config.Params) (t : Int) : rampTarget p t = BitVec.ofInt 8 (saturate p.maxDuty t) := by
  rw [rampTarget, clamp_saturates]

theorem autoPause_pauses {s : State} (h : s.pausesPoller) :
    s.autoPause = { s with
      poll := { s.poll with state := .paused, phase := .tick }
      seq := { s.seq with autoPaused := true } } := by
  unfold State.pausesPoller at h
  simp only [State.autoPause, if_pos h]

theorem autoPause_leaves {s : State} (h : ¬ s.pausesPoller) : s.autoPause = s := by
  unfold State.pausesPoller at h
  simp only [State.autoPause, if_neg h]

/-- Everything `start_session(k)` changes (R352). -/
theorem startSession_eq (k : SessionKind) (s : State) :
    s.startSession k = { s with
      poll := if s.params.pausePollerInSession = true ∧ s.poll.state = .running then
          { s.poll with state := .paused, phase := .tick } else s.poll
      seq := { s.seq with
        sessionKind := k
        autoPaused := if s.params.pausePollerInSession = true ∧ s.poll.state = .running then true
          else s.seq.autoPaused } } := by
  simp only [State.startSession, State.autoPause]
  split <;> rfl

/-- Everything the start of a ramp changes (R350, R351, R390). -/
theorem startRamp_eq (k : SessionKind) (x : Int) (h : Nat) (s : State) :
    s.startRamp k x h = { s with
      poll := if s.params.pausePollerInSession = true ∧ s.poll.state = .running then
          { s.poll with state := .paused, phase := .tick } else s.poll
      seq := { s.seq with
        state := .rampingUp
        target := BitVec.ofInt 8 (saturate s.params.maxDuty x)
        hold := BitVec.ofNat 16 h
        rampK := 1
        wait := 0
        sessionKind := k
        autoPaused := if s.params.pausePollerInSession = true ∧ s.poll.state = .running then true
          else s.seq.autoPaused } } := by
  simp only [State.startRamp, startSession_eq, rampTarget_eq]

/-- Everything `abort_session()` changes (R358). -/
theorem abortSession_eq (s : State) :
    s.abortSession = { s with
      seq := { s.seq with state := .stopping, stopPhase := .burst, stopCnt := 0, wait := 0 }
      sticky := s.sticky ||| 0x020 ||| 0x400
      counters := { s.counters with ioErr := s.counters.ioErr + 1 }
      out := s.out ++ [.event (.ioErrWrite .seq), .event (.sessionAbort s.seq.state)] } := by
  simp only [State.abortSession, State.raise, State.enterStopping, List.append_assoc]
  rfl

/-- Everything `complete_session()` changes (R376). -/
theorem completeSession_eq (s : State) :
    s.completeSession = { s with
      seq := { s.seq with
        state := .idle, cancel := false, sessionGated := false, autoPaused := false, sessionKind := .none }
      gate := if s.seq.sessionGated then
          (if s.params.cooldown = 0 then { s.gate with state := .idle }
           else { state := .cooldown, wait := Word.ofTicks s.params.cooldown })
        else s.gate
      poll := if s.seq.autoPaused = true ∧ s.poll.state = .paused then
          { s.poll with state := .running, phase := .tick, wait := 0 } else s.poll } := by
  rcases s with ⟨p, i, port, data, now, crc, acc, din, ⟨st, du, cm, ta, ho, rk, sp, sc, wa, ca, sg, ap, sk⟩, gate, poll,
    sticky, cnt, out, log, wire, chan, draw, sched, turns⟩
  cases sg <;> cases ap <;> simp [State.completeSession, State.closeGate, State.autoResume]

/-! ### Steps -/

/-- The one inversion lemma of a `SEQ` step: the guards of every case and its effect. -/
theorem seqMove_cases {s t : State} (h : s.seqMove = some t) :
    (s.seq.state = .idle ∧ s.seq.cancel = true ∧ t = s.emergencyStart)
    ∨ ((s.seq.state = .rampingUp ∨ s.seq.state = .holding ∨ s.seq.state = .rampingDown) ∧ s.seq.cancel = true
        ∧ t = s.enterStopping 0)
    ∨ (s.seq.state = .rampingUp ∧ s.seq.cancel = false ∧ s.seq.wait = 0 ∧ s.crc.tblReady = true ∧ t = s.rampUpStep)
    ∨ (s.seq.state = .holding ∧ s.seq.cancel = false ∧ s.seq.wait = 0 ∧ t = s.endHold)
    ∨ (s.seq.state = .rampingDown ∧ s.seq.cancel = false ∧ s.seq.wait = 0 ∧ s.crc.tblReady = true
        ∧ t = s.rampDownStep)
    ∨ (s.seq.state = .stopping ∧ s.seq.wait = 0 ∧ (s.seq.stopPhase = .flush ∨ s.crc.tblReady = true)
        ∧ t = s.stopStep) := by
  unfold State.seqMove at h
  cases hs : s.seq.state <;> simp only [hs] at h
  · split at h <;> simp_all
  · split at h
    · simp_all
    · split at h <;> simp_all [State.seqUsesChannel, elapsed]
  · split at h
    · simp_all
    · split at h <;> simp_all [elapsed]
  · split at h
    · simp_all
    · split at h <;> simp_all [State.seqUsesChannel, elapsed]
  · split at h
    · cases hp : s.seq.stopPhase <;> simp_all [State.seqUsesChannel, elapsed]
    · simp_all

/-- When `SEQ` has a session step: its own registers and `TBL_READY` say (70_reset_and_hazards.md R572). -/
theorem seqMove_isSome (s : State) :
    s.seqMove.isSome = match s.seq.state with
      | .idle => s.seq.cancel
      | .rampingUp => s.seq.cancel || s.seqUsesChannel
      | .holding => s.seq.cancel || elapsed s.seq.wait
      | .rampingDown => s.seq.cancel || s.seqUsesChannel
      | .stopping => s.seqUsesChannel := by
  unfold State.seqMove
  cases s.seq.state <;> cases s.seq.cancel <;> simp <;> split <;> simp_all

/-- Everything a reported frame of a zero duty in the stop procedure changes (R371, R373). -/
theorem burstStep_eq (s : State) :
    s.burstStep = { s with
      seq := { s.seq with
        duty := 0
        ctrlMode := .duty
        stopCnt := s.seq.stopCnt + 1
        stopPhase := if (s.seq.stopCnt + 1).toNat < s.params.stopBurstN then .burst else .current
        wait := Word.ofTicks s.params.stopBurstGap }
      wire := s.wire ++ [.write (s.dutyFrame 0) s.writeOutcome]
      chan := { s.chan with tx := s.chan.tx ++ sentOf (s.dutyFrame 0) s.draw.write }
      counters := ((s.sendDuty 0).reportWrite s.writeOutcome .seq).counters
      sticky := ((s.sendDuty 0).reportWrite s.writeOutcome .seq).sticky
      out := ((s.sendDuty 0).reportWrite s.writeOutcome .seq).out } := by
  simp only [State.burstStep, sendDuty_eq, reportWrite_eq]
  rfl

theorem currentStep_eq (s : State) :
    s.currentStep = { s with
      seq := { s.seq with
        ctrlMode := .current
        stopPhase := .sustain
        stopCnt := 0
        wait := Word.ofTicks s.params.stopSustainGap }
      wire := s.wire ++ [.write s.currentZeroFrame s.writeOutcome]
      chan := { s.chan with tx := s.chan.tx ++ sentOf s.currentZeroFrame s.draw.write }
      counters := (s.sendCurrentZero.reportWrite s.writeOutcome .seq).counters
      sticky := (s.sendCurrentZero.reportWrite s.writeOutcome .seq).sticky
      out := (s.sendCurrentZero.reportWrite s.writeOutcome .seq).out } := by
  simp only [State.currentStep, sendCurrentZero_eq, reportWrite_eq]

theorem sustainStep_eq (s : State) :
    s.sustainStep = { s with
      seq := { s.seq with
        duty := 0
        ctrlMode := .duty
        stopCnt := s.seq.stopCnt + 1
        stopPhase := if (s.seq.stopCnt + 1).toNat < s.params.stopSustainN then s.seq.stopPhase else .flush
        wait := if (s.seq.stopCnt + 1).toNat < s.params.stopSustainN then Word.ofTicks s.params.stopSustainGap else 0 }
      wire := s.wire ++ [.write (s.dutyFrame 0) s.writeOutcome]
      chan := { s.chan with tx := s.chan.tx ++ sentOf (s.dutyFrame 0) s.draw.write }
      counters := ((s.sendDuty 0).reportWrite s.writeOutcome .seq).counters
      sticky := ((s.sendDuty 0).reportWrite s.writeOutcome .seq).sticky
      out := ((s.sendDuty 0).reportWrite s.writeOutcome .seq).out } := by
  simp only [State.sustainStep, sendDuty_eq, reportWrite_eq]
  split <;> simp_all

end Sys2Proof.Machine
end

