-- ==== Sys2Proof/Laws/Steps.lean ====
section
/-! SUPPORT. What every step of `CMD`, `SEQ` and `POLL` keeps, and how a step that uses the channel extends `WIRE`, each said
once for all commands and all agent steps. -/

namespace Sys2Proof.Machine

/-! ### What no step of CMD, SEQ or POLL changes -/

/-- The parameters, the time base and the table stay, and `OUT` and `LOG` only grow (10_state.md R44, R82; 20_memory.md
R101). -/
structure Kept (s t : State) : Prop where
  params : t.params = s.params
  now : t.now = s.now
  tbl : t.crc.tbl = s.crc.tbl
  tblReady : t.crc.tblReady = s.crc.tblReady
  out : s.out <+: t.out
  log : s.log <+: t.log

theorem Kept.refl (s : State) : Kept s s := ⟨rfl, rfl, rfl, rfl, List.prefix_rfl, List.prefix_rfl⟩

theorem Kept.trans {a b c : State} (h : Kept a b) (h' : Kept b c) : Kept a c :=
  ⟨h'.params.trans h.params, h'.now.trans h.now, h'.tbl.trans h.tbl, h'.tblReady.trans h.tblReady, h.out.trans h'.out,
    h.log.trans h'.log⟩

theorem kept_begin (s : State) : Kept s s.begin := by constructor <;> simp

theorem kept_accPush (b : List Byte) (s : State) : Kept s (s.accPush b) := by
  unfold State.accPush
  dsimp only
  split <;> constructor <;> simp

theorem kept_accScan (s : State) : Kept s s.accScan := by
  rw [accScan_eq, accTrim_eq]
  split <;> constructor <;> simp

theorem kept_pollPayloads (ps : List (List Byte)) (s : State) : Kept s (s.pollPayloads ps) := by
  rw [pollPayloads_eq]
  constructor <;> simp

theorem kept_exec {i : Instr} {s t : State} (h : exec i s = .next t) : Kept s t := by
  cases i <;>
    simp only [exec, execNop, execCrcInit, execCrcUpdate, execCrcRead, execTblRead, execCrcBlock, execTxFrame,
      execSyncAppend, execSyncExtract, execSyncClear, execDecodeGv, execSetDuty, execRampAndHold, execTrigger, execHardStop,
      execEstop, execPollStart, execPollStartTemp, execPollPause, execPollResume, execPollStop, execStatRead,
      execStatusClear, Host.Outcome.next.injEq, State.whenTable, State.whenLockFree, State.withDin,
      State.whenHostOwnsAcc] at h <;>
    subst h
  case syncAppend n =>
    split
    · constructor <;> simp
    · split
      · exact .refl _
      · split
        · obtain ⟨h1, h2, h3, h4, h5, h6⟩ := kept_accPush (s.din.take n) (s.dinDrop n)
          exact ⟨by simpa using h1, by simpa using h2, by simpa using h3, by simpa using h4, by simpa using h5,
            by simpa using h6⟩
        · constructor <;> simp
  case syncExtract =>
    split
    · split
      · obtain ⟨h1, h2, h3, h4, h5, h6⟩ := kept_accScan s
        refine ⟨by simpa using h1, by simpa using h2, by simpa using h3, by simpa using h4, ?_, by simpa using h6⟩
        simp only [State.retire_out, State.emitOutAll_out]
        exact h5.trans (List.prefix_append _ _)
      · constructor <;> simp
    · exact .refl _
  case pollStop =>
    unfold State.pollStop
    split <;> constructor <;> simp
  all_goals
    (repeat' split) <;> constructor <;>
      simp [State.txWrite, sendFrame_eq, reportWrite_eq, State.setDutyWrite, sendDuty_eq, startRamp_eq, startSession_eq,
        State.pollBegin, State.pollPauseNow, State.pollResumeNow] <;>
      (try split) <;> simp

theorem kept_cmdMove {s t : State} (h : s.cmdMove = .next t) : Kept s t := by
  unfold State.cmdMove at h
  split at h
  · cases h
    exact .refl _
  · split at h
    · exact kept_exec h
    · simp only [execReserved] at h
      cases h
      constructor <;> simp

theorem kept_seqMove {s t : State} (h : s.seqMove = some t) : Kept s t := by
  rcases seqMove_cases h with ⟨_, _, rfl⟩ | ⟨_, _, rfl⟩ | ⟨_, _, _, _, rfl⟩ | ⟨_, _, _, rfl⟩ | ⟨_, _, _, _, rfl⟩
    | ⟨_, _, _, rfl⟩
  · constructor <;> simp [State.emergencyStart, startSession_eq]
  · constructor <;> simp
  · unfold State.rampUpStep
    dsimp only
    split
    · constructor <;> simp [abortSession_eq, sendDuty_eq]
    · unfold State.rampUpNext
      split <;> constructor <;> simp [sendDuty_eq]
  · unfold State.endHold
    split <;> constructor <;> simp
  · unfold State.rampDownStep
    dsimp only
    split
    · constructor <;> simp [abortSession_eq, sendDuty_eq]
    · unfold State.rampDownNext
      split <;> constructor <;> simp [sendDuty_eq]
  · unfold State.stopStep
    split
    · constructor <;> simp [burstStep_eq, sendDuty_eq, reportWrite_eq] <;> split <;> simp
    · constructor <;> simp [currentStep_eq, sendCurrentZero_eq, reportWrite_eq] <;> split <;> simp
    · constructor <;> simp [sustainStep_eq, sendDuty_eq, reportWrite_eq] <;> split <;> simp
    · unfold State.flushStep
      dsimp only
      split <;> constructor <;> simp [chanFlush_eq, completeSession_eq]
    · constructor <;> simp [State.reconfirmStep, sendCurrentZero_eq, reportWrite_eq, completeSession_eq] <;> split <;> simp

theorem kept_pollMove {s t : State} (h : s.pollMove = some t) : Kept s t := by
  rcases pollMove_cases h with ⟨_, _, h3, rfl⟩ | ⟨_, _, _, _, ⟨_, rfl⟩ | ⟨_, rfl⟩⟩
  · rw [pollStop_eq h3]
    constructor <;> simp
  · rw [pollSend_eq]
    constructor <;> simp
    split <;> simp
  · have hf : Kept s s.chanRead.pollReadFailed := by
      rw [pollReadFailed_eq, chanRead_eq]
      constructor <;> simp
    unfold State.pollRead
    split
    · exact hf
    · exact hf
    · rename_i b bs _
      have h0 : Kept s s.chanRead := by
        rw [chanRead_eq]
        constructor <;> simp
      obtain ⟨h1, h2, h3, h4, h5, h6⟩ := ((h0.trans (kept_accPush (b :: bs) _)).trans (kept_accScan _)).trans
        (kept_pollPayloads (s.chanRead.accPush (b :: bs)).scanOut _)
      exact ⟨h1, h2, h3, h4, h5, h6⟩

/-! ### How a step extends WIRE -/

/-- No channel operation: `WIRE` and `TX_FRAME_COUNT` stay. -/
def NoRecord (s t : State) : Prop := t.wire = s.wire ∧ t.counters.txFrame = s.counters.txFrame

/-- One channel operation: one record on `WIRE`, and a frame written with outcome ok is counted (41_framer.md R265). -/
def OneRecord (s t : State) : Prop :=
  ∃ r, t.wire = s.wire ++ [r]
    ∧ t.counters.txFrame = match r with
      | .write _ .ok => s.counters.txFrame + 1
      | .write _ .err => s.counters.txFrame
      | .read _ => s.counters.txFrame
      | .flush => s.counters.txFrame

/-- A step that uses the channel exactly when `b` says so. -/
def Records (b : Bool) (s t : State) : Prop := if b then OneRecord s t else NoRecord s t

theorem oneRecord_of_write {s t : State} {f : List Byte} (h1 : t.wire = s.wire ++ [.write f s.writeOutcome])
    (h2 : t.counters.txFrame = okCount s.writeOutcome s.counters.txFrame) : OneRecord s t := by
  refine ⟨_, h1, ?_⟩
  rw [h2]
  cases s.writeOutcome <;> rfl

theorem noRecord_accPush (b : List Byte) (s : State) : NoRecord s (s.accPush b) := by
  unfold State.accPush
  dsimp only
  split <;> constructor <;> simp

theorem noRecord_accScan (s : State) : NoRecord s s.accScan := by
  rw [accScan_eq, accTrim_eq]
  split <;> constructor <;> simp

theorem records_exec {i : Instr} {s t : State} (h : exec i s = .next t) : Records (s.commandUsesChannel i) s t := by
  cases i <;>
    simp only [exec, execNop, execCrcInit, execCrcUpdate, execCrcRead, execTblRead, execCrcBlock, execTxFrame,
      execSyncAppend, execSyncExtract, execSyncClear, execDecodeGv, execSetDuty, execRampAndHold, execTrigger, execHardStop,
      execEstop, execPollStart, execPollStartTemp, execPollPause, execPollResume, execPollStop, execStatRead,
      execStatusClear, Host.Outcome.next.injEq, State.whenTable, State.whenLockFree, State.withDin,
      State.whenHostOwnsAcc] at h <;>
    subst h
  case txFrame n =>
    simp only [State.commandUsesChannel]
    cases ht : s.crc.tblReady <;> simp [Records]
    · constructor <;> rfl
    · cases hd : s.cmdData <;> simp
      · (repeat' split) <;> constructor <;> simp
      · split
        · exact oneRecord_of_write (by simp [State.txWrite, sendFrame_eq, reportWrite_eq]; rfl)
            (by simp [State.txWrite, sendFrame_eq, reportWrite_eq]; split <;> simp_all)
        · constructor <;> rfl
  case setDuty x =>
    simp only [State.commandUsesChannel]
    cases ht : s.crc.tblReady <;> simp [Records]
    · constructor <;> rfl
    · split
      · exact oneRecord_of_write (by simp [State.setDutyWrite, sendDuty_eq, reportWrite_eq]; rfl)
          (by simp [State.setDutyWrite, sendDuty_eq, reportWrite_eq]; split <;> simp_all)
      · constructor <;> rfl
  all_goals simp only [State.commandUsesChannel, Records, if_false, Bool.false_eq_true]
  case syncAppend n =>
    split
    · constructor <;> simp
    · split
      · constructor <;> simp
      · split
        · have h := noRecord_accPush (s.din.take n) (s.dinDrop n)
          exact ⟨by simpa using h.1, by simpa using h.2⟩
        · constructor <;> simp
  case syncExtract =>
    split
    · split
      · have h := noRecord_accScan s
        exact ⟨by simpa using h.1, by simpa using h.2⟩
      · constructor <;> simp
    · constructor <;> simp
  case pollStop =>
    unfold State.pollStop
    split <;> constructor <;> simp
  all_goals
    (repeat' split) <;> constructor <;>
      simp [startRamp_eq, startSession_eq, State.pollBegin, State.pollPauseNow, State.pollResumeNow]

theorem records_cmdMove {s t : State} (h : s.cmdMove = .next t) : Records s.cmdUsesChannel s t := by
  unfold State.cmdMove at h
  unfold State.cmdUsesChannel
  split at h
  · cases h
    exact ⟨rfl, rfl⟩
  · split at h
    · exact records_exec h
    · simp only [execReserved] at h
      cases h
      constructor <;> simp

theorem records_seqMove {s t : State} (h : s.seqMove = some t) : Records s.seqUsesChannel s t := by
  rcases seqMove_cases h with ⟨h1, _, rfl⟩ | ⟨h1, h2, rfl⟩ | ⟨h1, h2, h3, h4, rfl⟩ | ⟨h1, _, _, rfl⟩
    | ⟨h1, h2, h3, h4, rfl⟩ | ⟨h1, h2, h3, rfl⟩
  · simp only [Records, State.seqUsesChannel, h1, Bool.false_eq_true, if_false]
    constructor <;> simp [State.emergencyStart, startSession_eq]
  · have hu : s.seqUsesChannel = false := by rcases h1 with h1 | h1 | h1 <;> simp [State.seqUsesChannel, h1, h2]
    simp only [Records, hu, Bool.false_eq_true, if_false]
    constructor <;> simp
  · have hu : s.seqUsesChannel = true := by simp [State.seqUsesChannel, h1, h2, h3, h4, elapsed]
    simp only [Records, hu, if_true]
    unfold State.rampUpStep
    dsimp only
    split
    · exact oneRecord_of_write (by simp [abortSession_eq, sendDuty_eq]; rfl) (by simp [abortSession_eq, sendDuty_eq])
    · unfold State.rampUpNext
      split <;> exact oneRecord_of_write (by simp [sendDuty_eq]; rfl) (by simp [sendDuty_eq])
  · simp only [Records, State.seqUsesChannel, h1, Bool.false_eq_true, if_false]
    unfold State.endHold
    split <;> constructor <;> simp
  · have hu : s.seqUsesChannel = true := by simp [State.seqUsesChannel, h1, h2, h3, h4, elapsed]
    simp only [Records, hu, if_true]
    unfold State.rampDownStep
    dsimp only
    split
    · exact oneRecord_of_write (by simp [abortSession_eq, sendDuty_eq]; rfl) (by simp [abortSession_eq, sendDuty_eq])
    · unfold State.rampDownNext
      split <;> exact oneRecord_of_write (by simp [sendDuty_eq]; rfl) (by simp [sendDuty_eq])
  · have hu : s.seqUsesChannel = true := by
      rcases h3 with h3 | h3 <;> simp [State.seqUsesChannel, h1, h2, h3, elapsed]
      split <;> rfl
    simp only [Records, hu, if_true]
    unfold State.stopStep
    split
    · exact oneRecord_of_write (by simp [burstStep_eq]; rfl)
        (by simp [burstStep_eq, sendDuty_eq, reportWrite_eq]; split <;> simp_all)
    · exact oneRecord_of_write (by simp [currentStep_eq]; rfl)
        (by simp [currentStep_eq, sendCurrentZero_eq, reportWrite_eq]; split <;> simp_all)
    · exact oneRecord_of_write (by simp [sustainStep_eq]; rfl)
        (by simp [sustainStep_eq, sendDuty_eq, reportWrite_eq]; split <;> simp_all)
    · unfold State.flushStep
      dsimp only
      split <;> refine ⟨.flush, ?_, ?_⟩ <;> simp [chanFlush_eq, completeSession_eq]
    · exact oneRecord_of_write (by simp [State.reconfirmStep, sendCurrentZero_eq, reportWrite_eq, completeSession_eq]; rfl)
        (by simp [State.reconfirmStep, sendCurrentZero_eq, reportWrite_eq, completeSession_eq]; split <;> simp_all)

theorem records_pollMove {s t : State} (h : s.pollMove = some t) : Records s.pollUsesChannel s t := by
  rcases pollMove_cases h with ⟨h1, h2, h3, rfl⟩ | ⟨h1, h2, h3, h4, h5⟩
  · have hu : s.pollUsesChannel = false := by simp [State.pollUsesChannel, State.windowExpired, h1, h2, elapsed]
    simp only [Records, hu, Bool.false_eq_true, if_false, pollStop_eq h3]
    constructor <;> simp
  · have hu : s.pollUsesChannel = true := by simp [State.pollUsesChannel, h1, h2, h3, h4, elapsed]
    simp only [Records, hu, if_true]
    rcases h5 with ⟨_, rfl⟩ | ⟨_, rfl⟩
    · rw [pollSend_eq]
      refine ⟨_, rfl, ?_⟩
      cases s.writeOutcome <;> rfl
    · have hf : OneRecord s s.chanRead.pollReadFailed := by
        rw [pollReadFailed_eq, chanRead_eq]
        exact ⟨_, rfl, rfl⟩
      unfold State.pollRead
      split
      · exact hf
      · exact hf
      · rename_i b bs _
        have h1 := noRecord_accPush (b :: bs) s.chanRead
        have h2 := noRecord_accScan (s.chanRead.accPush (b :: bs))
        refine ⟨.read s.readResult, ?_, ?_⟩
        · simp only [State.pollReadBytes]
          rw [pollPayloads_eq, State.setPollPhase_wire, h2.1, h1.1, chanRead_eq]
        · simp only [State.pollReadBytes]
          rw [pollPayloads_eq, State.setPollPhase_counters]
          simp only [h2.2, h1.2]
          rw [chanRead_eq]

/-- A step that uses the channel is one whose `WIRE` differs. -/
theorem records_wire_ne {b : Bool} {s t : State} (h : Records b s t) : t.wire ≠ s.wire ↔ b = true := by
  cases b
  · simp only [Records, Bool.false_eq_true, if_false] at h
    simp [h.1]
  · simp only [Records, if_true] at h
    obtain ⟨r, h, _⟩ := h
    simp [h]

end Sys2Proof.Machine
end

