-- ==== Sys2Proof/Laws/Holds.lean ====
section
/-! SUPPORT. What the steps of `CMD`, `SEQ` and `POLL` can do to the parts of the state that holds wait for
(70_reset_and_hazards.md R571), each said once; and when a command holds. -/

namespace Sys2Proof.Machine

/-! ### What a step changes of the parts that holds wait for -/

/-- None of the parts that holds wait for changes: so the accumulator procedures. -/
structure Idles (s t : State) : Prop where
  params : t.params = s.params
  crc : t.crc = s.crc
  din : t.din = s.din
  seq : t.seq = s.seq
  gate : t.gate = s.gate
  poll : t.poll = s.poll
  cmdPort : t.cmdPort = s.cmdPort
  cmdData : t.cmdData = s.cmdData
  cmdIdx : t.cmdIdx = s.cmdIdx

theorem Idles.trans {a b c : State} (h : Idles a b) (h' : Idles b c) : Idles a c :=
  ⟨h'.params.trans h.params, h'.crc.trans h.crc, h'.din.trans h.din, h'.seq.trans h.seq, h'.gate.trans h.gate,
    h'.poll.trans h.poll, h'.cmdPort.trans h.cmdPort, h'.cmdData.trans h.cmdData, h'.cmdIdx.trans h.cmdIdx⟩

theorem idles_accPush (b : List Byte) (s : State) : Idles s (s.accPush b) := by
  unfold State.accPush
  dsimp only
  split <;> constructor <;> simp

theorem idles_accScan (s : State) : Idles s s.accScan := by
  rw [accScan_eq, accTrim_eq]
  split <;> constructor <;> simp

theorem idles_pollPayloads (ps : List (List Byte)) (s : State) : Idles s (s.pollPayloads ps) := by
  rw [pollPayloads_eq]
  constructor <;> simp

theorem idles_chanRead (s : State) : Idles s s.chanRead := by
  rw [chanRead_eq]
  constructor <;> simp

/-- A read step of the poller changes, of those parts, its own phase and wait. -/
theorem idles_pollRead (s : State) :
    ∃ d, Idles { s with poll := { s.poll with phase := .tick, wait := d } } s.pollRead := by
  have hf : Idles { s with poll := { s.poll with phase := .tick, wait := Word.ofTicks s.params.backoff } }
      s.chanRead.pollReadFailed := by
    rw [pollReadFailed_eq, chanRead_eq]
    constructor <;> simp
  unfold State.pollRead
  split
  · exact ⟨_, hf⟩
  · exact ⟨_, hf⟩
  · rename_i b bs _
    have e := ((idles_chanRead s).trans (idles_accPush (b :: bs) _)).trans (idles_accScan _)
    have e' := e.trans (idles_pollPayloads (s.chanRead.accPush (b :: bs)).scanOut _)
    refine ⟨Word.ofTicks s.params.pollInterval, ?_⟩
    unfold State.pollReadBytes
    dsimp only
    constructor <;>
      simp [e'.params, e'.crc, e'.din, e'.seq, e'.gate, e'.poll, e'.cmdPort, e'.cmdData, e'.cmdIdx, State.setPollPhase,
         (idles_chanRead s).params]

/-- What a step of `CMD` can do to the parts that holds wait for: it writes no delay but 0, leaves a session alone but for
`CANCEL` (30_encoding.md R146, 43_duty_sequencer.md R342), and retires, holds, or takes a payload. -/
structure CmdFrame (s t : State) : Prop where
  params : t.params = s.params
  crc : t.crc = { s.crc with crcAcc := t.crc.crcAcc }
  seqWait : t.seq.wait = s.seq.wait ∨ t.seq.wait = 0
  gateWait : t.gate.wait = s.gate.wait
  pollWait : t.poll.wait = s.poll.wait ∨ t.poll.wait = 0
  tempLeft : t.poll.tempLeft = s.poll.tempLeft ∨ t.poll.tempLeft = 0 ∨ s.poll.state = .stopped
  session : s.lockFree = false → t.gate = s.gate
    ∧ t.seq = { s.seq with cancel := t.seq.cancel, autoPaused := t.seq.autoPaused }
    ∧ (s.seq.cancel = true → t.seq.cancel = true)
  port : (t.cmdIdx = s.cmdIdx + 1 ∧ t.cmdPort = s.cmdPort.tail ∧ t.cmdData = none) ∨ t = s
    ∨ (s.cmdData = none ∧ ∃ n, n ≤ s.params.dinDepth ∧ n ≤ s.din.length
        ∧ t = { s with din := s.din.drop n, cmdData := some (s.din.take n) })

theorem cmdFrame_refl (s : State) : CmdFrame s s := by constructor <;> simp

theorem cmdFrame_exec {i : Instr} {s t : State} (h : exec i s = .next t) : CmdFrame s t := by
  have hl := lockFree_iff s
  cases i <;>
    simp only [exec, execNop, execCrcInit, execCrcUpdate, execCrcRead, execTblRead, execCrcBlock, execTxFrame,
      execSyncAppend, execSyncExtract, execSyncClear, execDecodeGv, execSetDuty, execRampAndHold, execTrigger, execHardStop,
      execEstop, execPollStart, execPollStartTemp, execPollPause, execPollResume, execPollStop, execStatRead,
      execStatusClear, Host.Outcome.next.injEq, State.whenTable, State.whenLockFree, State.withDin,
      State.whenHostOwnsAcc] at h <;>
    subst h
  case syncAppend n =>
    split
    · constructor <;> simp
    · split
      · exact cmdFrame_refl s
      · split
        · have e := idles_accPush (s.din.take n) (s.dinDrop n)
          constructor <;> simp [e.params, e.crc, e.seq, e.gate, e.poll, e.cmdIdx, e.cmdPort]
        · constructor <;> simp
  case syncExtract =>
    split
    · split
      · have e := idles_accScan s
        constructor <;> simp [e.params, e.crc, e.seq, e.gate, e.poll, e.cmdIdx, e.cmdPort]
      · constructor <;> simp
    · exact cmdFrame_refl s
  case pollStop =>
    unfold State.pollStop
    split <;> constructor <;> simp
  case txFrame n =>
    split
    · split
      · split
        · constructor <;> simp
        · split
          · exact cmdFrame_refl s
          · rename_i hd _ _
            constructor <;> simp [hd]
            exact .inr ⟨n, by omega, by omega, rfl⟩
      · split
        · constructor <;> simp [State.txWrite, sendFrame_eq, reportWrite_eq]
        · exact cmdFrame_refl s
    · exact cmdFrame_refl s
  case trigger x hh =>
    split
    · split
      · rename_i hc
        rw [startRamp_eq]
        by_cases hp : s.params.pausePollerInSession = true ∧ s.poll.state = .running
        · constructor <;> simp [hp, hc.2]
        · constructor <;> simp [hp, hc.2]
      · constructor <;> simp
    · exact cmdFrame_refl s
  all_goals
    (repeat' split) <;> (first | exact cmdFrame_refl s | skip) <;> constructor <;>
      simp [reportWrite_eq, State.setDutyWrite, sendDuty_eq, startRamp_eq, startSession_eq,
        State.pollBegin, State.pollPauseNow, State.pollResumeNow] <;>
      (repeat' split) <;> simp_all


theorem cmdFrame_cmdMove {s t : State} (h : s.cmdMove = .next t) : CmdFrame s t := by
  unfold State.cmdMove at h
  split at h
  · cases h
    exact cmdFrame_refl s
  · split at h
    · exact cmdFrame_exec h
    · simp only [execReserved] at h
      cases h
      constructor <;> simp

/-- A step of the session: it writes a delay only where the last one is over, and starts the cooldown only of a gate that
was busy. -/
structure SeqFrame (s t : State) : Prop where
  crc : t.crc = s.crc
  din : t.din = s.din
  cmdPort : t.cmdPort = s.cmdPort
  cmdData : t.cmdData = s.cmdData
  cmdIdx : t.cmdIdx = s.cmdIdx
  busy : s.seq.state ≠ .idle ∨ s.seq.cancel = true
  seqWait : s.seq.wait = 0 ∨ t.seq.wait = 0
  pollWait : t.poll.wait = s.poll.wait ∨ t.poll.wait = 0
  tempLeft : t.poll.tempLeft = s.poll.tempLeft
  gate : t.gate = s.gate ∨ s.seq.sessionGated = true ∧ t.seq.state = .idle ∧ t.seq.cancel = false
  seqState : t.seq.state = .idle → t.seq.cancel = false

theorem seqFrame_seqMove {s t : State} (h : s.seqMove = some t) : SeqFrame s t := by
  rcases seqMove_cases h with ⟨h1, h2, rfl⟩ | ⟨h1, h2, rfl⟩ | ⟨h1, h2, h3, h4, rfl⟩ | ⟨h1, h2, h3, rfl⟩
    | ⟨h1, h2, h3, h4, rfl⟩ | ⟨h1, h2, h3, rfl⟩
  · constructor <;> simp [State.emergencyStart, startSession_eq, h2]
    all_goals
      by_cases hp : s.params.pausePollerInSession = true ∧ s.poll.state = .running <;> simp [hp]
  · rcases h1 with h1 | h1 | h1 <;> constructor <;> simp [h1, h2]
  · unfold State.rampUpStep
    dsimp only
    split
    · constructor <;> simp [abortSession_eq, sendDuty_eq, h1, h3]
    · unfold State.rampUpNext
      split <;> constructor <;> simp [sendDuty_eq, h1, h2, h3]
  · unfold State.endHold
    split <;> constructor <;> simp [h1, h3]
  · unfold State.rampDownStep
    dsimp only
    split
    · constructor <;> simp [abortSession_eq, sendDuty_eq, h1, h3]
    · unfold State.rampDownNext
      split <;> constructor <;> simp [sendDuty_eq, h1, h2, h3]
  · unfold State.stopStep
    split
    · constructor <;> simp [burstStep_eq, h1, h2]
    · constructor <;> simp [currentStep_eq, h1, h2]
    · constructor <;> simp [sustainStep_eq, h1, h2]
    · unfold State.flushStep
      dsimp only
      split
      · constructor <;> simp [chanFlush_eq, h1, h2]
      · cases hg : s.seq.sessionGated <;> by_cases hp : s.seq.autoPaused = true ∧ s.poll.state = .paused <;>
          constructor <;> simp [chanFlush_eq, completeSession_eq, h1, h2, hg, hp]
    · cases hg : s.seq.sessionGated <;> by_cases hp : s.seq.autoPaused = true ∧ s.poll.state = .paused <;>
        constructor <;>
        simp [State.reconfirmStep, sendCurrentZero_eq, reportWrite_eq, completeSession_eq, h1, h2, hg, hp]

/-- A step of the poller: it writes a delay only where the last one is over. -/
structure PollFrame (s t : State) : Prop where
  crc : t.crc = s.crc
  din : t.din = s.din
  cmdPort : t.cmdPort = s.cmdPort
  cmdData : t.cmdData = s.cmdData
  cmdIdx : t.cmdIdx = s.cmdIdx
  seq : t.seq = { s.seq with autoPaused := t.seq.autoPaused }
  gate : t.gate = s.gate
  pollWait : s.poll.wait = 0 ∨ t.poll.wait = 0
  tempLeft : t.poll.tempLeft = s.poll.tempLeft ∨ t.poll.tempLeft = 0

theorem pollFrame_pollMove {s t : State} (h : s.pollMove = some t) : PollFrame s t := by
  rcases pollMove_cases h with ⟨h1, h2, h3, rfl⟩ | ⟨h1, h2, h3, h4, h5⟩
  · rw [pollStop_eq h3]
    constructor <;> simp
  · rcases h5 with ⟨_, rfl⟩ | ⟨_, rfl⟩
    · rw [pollSend_eq]
      constructor <;> simp [h2]
      cases s.writeOutcome <;> simp
    · obtain ⟨d, e⟩ := idles_pollRead s
      constructor <;> simp [e.crc, e.din, e.cmdPort, e.cmdData, e.cmdIdx, e.seq, e.gate, e.poll, h2]

/-! ### When a command holds -/

/-- What a command holds for in `s`: the table, bytes of `DIN`, or the session lock. -/
def State.Holds (s : State) (i : Instr) : Prop :=
  (needsTable i = true ∧ s.crc.tblReady = false)
  ∨ (∃ n, dinCount i = some n ∧ (i = .txFrame n → s.cmdData = none) ∧ n ≤ s.params.dinDepth ∧ s.din.length < n)
  ∨ (s.lockFree = false ∧ match i with
      | .setDuty _ | .rampAndHold _ _ | .hardStop => True
      | .txFrame _ => s.cmdData.isSome = true
      | .nop | .crcInit | .crcUpdate _ | .crcRead | .tblRead _ | .crcBlock _ | .syncAppend _ | .syncExtract | .syncClear
      | .decodeGv _ | .trigger _ _ | .estop | .pollStart | .pollStartTemp _ | .pollPause | .pollResume | .pollStop
      | .statRead _ | .statusClear => False)

/-- A command that retires has taken a step. -/
theorem retire_ne {s u : State} (h : u.cmdIdx = s.cmdIdx) : u.retire ≠ s := by
  intro e
  have := congrArg State.cmdIdx e
  simp only [State.retire_cmdIdx] at this
  omega

/-- A command that does not hold takes its step, and one that holds takes none. -/
theorem exec_holds_iff (i : Instr) (s : State) : exec i s = .next s ↔ s.Holds i := by
  cases i <;>
    simp only [exec, execNop, execCrcInit, execCrcUpdate, execCrcRead, execTblRead, execCrcBlock, execTxFrame,
      execSyncAppend, execSyncExtract, execSyncClear, execDecodeGv, execSetDuty, execRampAndHold, execTrigger, execHardStop,
      execEstop, execPollStart, execPollStartTemp, execPollPause, execPollResume, execPollStop, execStatRead,
      execStatusClear, Host.Outcome.next.injEq, State.whenTable, State.whenLockFree, State.withDin,
      State.whenHostOwnsAcc, State.Holds, needsTable, dinCount]
  case txFrame n =>
    cases ht : s.crc.tblReady <;> simp
    cases hd : s.cmdData <;> simp
    · split
      · refine iff_of_false (retire_ne (by simp)) ?_
        simp
        omega
      · split
        · simp
          omega
        · constructor
          · intro h
            have := congrArg State.cmdData h
            simp [hd] at this
          · simp
            omega
    · cases hl : s.lockFree <;> simp [State.txWrite]
      exact retire_ne (by simp [sendFrame_eq, reportWrite_eq])
  all_goals
    cases ht : s.crc.tblReady <;> simp [retire_ne]
  all_goals
    (try cases hl : s.lockFree <;> simp [State.setDutyWrite])
  case syncAppend.false | syncAppend.true =>
    split
    · exact iff_of_false (retire_ne (by simp)) (by omega)
    · split
      · simp
        omega
      · refine iff_of_false (retire_ne ?_) (by omega)
        by_cases hp : s.poll.state = .stopped <;> simp [hp, (idles_accPush _ _).cmdIdx]
  case syncExtract.true =>
    refine retire_ne ?_
    split
    · simp [(idles_accScan s).cmdIdx]
    · simp
  case crcBlock.true | decodeGv.false | decodeGv.true =>
    split
    · exact iff_of_false (retire_ne (by simp)) (by omega)
    · split
      · simp
        omega
      · exact iff_of_false (retire_ne (by simp)) (by omega)
  all_goals
    refine retire_ne ?_
    (try unfold State.pollStop)
    (repeat' split) <;>
      simp [sendDuty_eq, reportWrite_eq, startRamp_eq, startSession_eq, State.pollBegin, State.pollPauseNow,
        State.pollResumeNow]

/-- Every command answers a next state. -/
theorem exec_next (i : Instr) (s : State) : ∃ t, exec i s = .next t := by
  cases i <;> exact ⟨_, rfl⟩

theorem cmdMove_next (s : State) : ∃ t, s.cmdMove = .next t := by
  unfold State.cmdMove
  split
  · exact ⟨_, rfl⟩
  · split
    · exact exec_next _ _
    · exact ⟨_, rfl⟩

/-- When `CMD` has no enabled step: no word is presented, or the command holds. -/
theorem cmdMove_eq_iff (s : State) :
    s.cmdMove = .next s ↔ ∀ w ws, s.cmdPort = w :: ws → ∃ i, decode w = .instr i ∧ s.Holds i := by
  unfold State.cmdMove
  cases hp : s.cmdPort with
  | nil => simp
  | cons w ws =>
    cases hd : decode w with
    | instr i => simp [hd, exec_holds_iff]
    | reserved op =>
      simp only [hd, execReserved, Host.Outcome.next.injEq, List.cons.injEq, and_imp]
      refine iff_of_false (retire_ne (by simp)) ?_
      intro h
      obtain ⟨i, h, _⟩ := h w ws rfl rfl
      rw [hd] at h
      cases h

/-- A command that awaits bytes holds. -/
theorem cmdMove_awaits {s : State} (h : s.AwaitsDin) : s.cmdMove = .next s := by
  obtain ⟨hd, w, ws, i, n, hp, hi, hn, h1, h2⟩ := h
  rw [cmdMove_eq_iff]
  intro w' ws' hp'
  rw [hp] at hp'
  cases hp'
  exact ⟨i, hi, .inr (.inl ⟨n, hn, fun _ => hd, h1, h2⟩)⟩

/-- With the table ready, the lock free and its bytes there, a presented command takes a step. -/
theorem cmdMove_ne {s : State} (hI : s.PortInv) (ht : s.crc.tblReady = true) (hf : s.lockFree = true)
    (ha : ¬ s.AwaitsDin) (hp : s.cmdPort ≠ []) : s.cmdMove ≠ .next s := by
  rw [Ne, cmdMove_eq_iff]
  intro hall
  cases hq : s.cmdPort with
  | nil => exact hp hq
  | cons w ws =>
    obtain ⟨i, hd, ⟨_, h2⟩ | ⟨n, h1, h2, h3, h4⟩ | ⟨h1, _⟩⟩ := hall w ws hq
    · simp [ht] at h2
    · refine ha ⟨?_, w, ws, i, n, hq, hd, h1, h3, h4⟩
      cases hc : s.cmdData with
      | none => rfl
      | some p =>
        obtain ⟨w', ws', e1, e2⟩ := hI p hc
        rw [hq] at e1
        cases e1
        rw [hd] at e2
        cases e2
        simp only [dinCount, Option.some.injEq] at h1
        subst h1
        rw [← hc]
        exact h2 rfl
    · simp [hf] at h1

/-- A command whose bytes are there holds, or takes them. -/
theorem exec_takes_din {i : Instr} {n : Nat} {s t : State} (hc : dinCount i = some n) (hd : s.cmdData = none)
    (h0 : 0 < n) (h1 : n ≤ s.params.dinDepth) (h2 : n ≤ s.din.length) (h : exec i s = .next t) :
    t = s ∨ t.din.length < s.din.length := by
  cases i <;> simp only [dinCount, Option.some.injEq, reduceCtorEq] at hc <;> subst hc <;>
    simp only [exec, execCrcBlock, execTxFrame, execSyncAppend, execDecodeGv, Host.Outcome.next.injEq, State.whenTable,
      State.whenHostOwnsAcc] at h <;>
    subst h
  · split
    · rw [withDin_take h1 h2]
      simp
      omega
    · exact .inl rfl
  · split
    · rw [hd]
      dsimp only
      rw [withDin_take h1 h2]
      simp
      omega
    · exact .inl rfl
  · rw [withDin_take h1 h2]
    right
    split
    · simp [(idles_accPush _ _).din]
      omega
    · simp
      omega
  · rw [withDin_take h1 h2]
    simp
    omega

end Sys2Proof.Machine
end

