-- ==== Sys2Proof/Laws/Fair.lean ====
section
/-! SUPPORT. Fair runs (70_reset_and_hazards.md R572): the moves of a run, each agent's progress when it takes a step, and the
rules by which weak fairness brings a run to a goal. -/

namespace Sys2Proof.Machine

/-! ### One move -/

theorem genMove_some {s t : State} (h : s.genMove = some t) :
    s.crc.tblReady = false ∧ t = { s with crc := s.crc.genStep } := by
  unfold State.genMove at h
  split at h
  · exact ⟨by simp_all, (Option.some.inj h).symm⟩
  · cases h

theorem gateReleaseMove_some {s t : State} (h : s.gateReleaseMove = some t) :
    s.gate.state = .cooldown ∧ t = { s with gate := { s.gate with state := .idle } } := by
  unfold State.gateReleaseMove at h
  split at h
  · exact ⟨by simp_all, (Option.some.inj h).symm⟩
  · cases h

theorem pushDin_some {b : Byte} {s t : State} (h : s.pushDin b = some t) :
    s.din.length < s.params.dinDepth ∧ t = { s with din := s.din ++ [b] } := by
  unfold State.pushDin at h
  split at h
  · exact ⟨‹_›, (Option.some.inj h).symm⟩
  · cases h

/-- A move that is not a reset, by the agent that takes a step. -/
theorem runMove_cases {m : Move} {s t : State} (h : runMove m s = .next t) (hr : m ≠ .hostReset) :
    (s.granted m = .cmd ∧ s.cmdMove = .next t)
    ∨ (m = .gen ∧ s.crc.tblReady = false ∧ t = { s with crc := s.crc.genStep })
    ∨ (s.granted m = .poll ∧ s.pollMove = some t)
    ∨ (s.granted m = .seq ∧ s.seqMove = some t)
    ∨ (m = .gateRelease ∧ s.gate.state = .cooldown ∧ t = { s with gate := { s.gate with state := .idle } })
    ∨ (m = .clk ∧ t = s.clkStep)
    ∨ (m = .hostEstop ∧ t = s.setCancel)
    ∨ (∃ w, m = .hostPresent w ∧ t = s.present w)
    ∨ (∃ b, m = .hostPush b ∧ s.din.length < s.params.dinDepth ∧ t = { s with din := s.din ++ [b] })
    ∨ (∃ c, t = { s with chan := c }) := by
  have hold : ∀ {o : Option State}, orHold s o = .next t → o = some t ∨ ∃ c, t = { s with chan := c } := by
    intro o ho
    unfold orHold at ho
    cases o <;> cases ho
    · exact .inr ⟨s.chan, rfl⟩
    · exact .inl rfl
  cases m <;> simp only [runMove, State.granted] at h ⊢
  case cmd => exact .inl ⟨trivial, h⟩
  case arbiter =>
    unfold State.arbiterMove at h
    cases hs : s.seqUsesChannel <;> simp only [hs, if_true, Bool.false_eq_true, if_false] at h ⊢
    · cases hc : s.cmdUsesChannel <;> simp only [hc, if_true, Bool.false_eq_true, if_false] at h ⊢
      · cases hp : s.pollUsesChannel <;> simp only [hp, if_true, Bool.false_eq_true, if_false] at h ⊢
        · cases h
          simp only [reduceCtorEq, false_and, exists_const, false_or]
          exact ⟨s.chan, rfl⟩
        · rcases hold h with h | h <;> simp [h]
      · exact .inl ⟨trivial, h⟩
    · rcases hold h with h | h <;> simp [h]
  case hostReset => simp at hr
  case gen =>
    rcases hold h with h | h
    · simp [genMove_some h]
    · simp [h]
  case gateRelease =>
    rcases hold h with h | h
    · simp [gateReleaseMove_some h]
    · simp [h]
  case hostPush =>
    rcases hold h with h | h
    · simp [pushDin_some h]
    · simp [h]
  case poll | seq => rcases hold h with h | h <;> simp [h]
  case chanReceive bs =>
    cases h
    simp only [reduceCtorEq, false_and, exists_const, false_or]
    exact ⟨_, rfl⟩
  case chanTransmit k =>
    cases h
    simp only [reduceCtorEq, false_and, exists_const, false_or]
    exact ⟨_, rfl⟩
  all_goals
    cases h
    simp

/-- A move runs as the move the arbiter makes of it (20_memory.md R112). -/
theorem runMove_granted (m : Move) (s : State) : runMove m s = runMove (s.granted m) s := by
  cases m
  case arbiter =>
    simp only [runMove, State.arbiterMove, State.granted]
    cases hs : s.seqUsesChannel
    · cases hc : s.cmdUsesChannel
      · cases hp : s.pollUsesChannel <;> simp
      · simp
    · simp
  all_goals rfl

/-- `t` is the state after an enabled step of the agent in `s`. -/
def BlockAgent.Steps (s t : State) : BlockAgent → Prop
  | .cmd => s.cmdMove = .next t ∧ t ≠ s
  | .gen => s.crc.tblReady = false ∧ t = { s with crc := s.crc.genStep }
  | .poll => s.pollMove = some t
  | .seq => s.seqMove = some t ∨ s.gate.state = .cooldown ∧ t = { s with gate := { s.gate with state := .idle } }
  | .clk => t = s.clkStep

/-- A move by which the agent takes a step runs that step. -/
theorem steps_of_takes {a : BlockAgent} {m : Move} {s t : State} (ht : a.Takes s m) (h : runMove m s = .next t) :
    a.Steps s t := by
  have get : ∀ {o : Option State}, o.isSome = true → orHold s o = .next t → o = some t := by
    intro o ho h
    obtain ⟨u, rfl⟩ := Option.isSome_iff_exists.1 ho
    cases h
    rfl
  rw [runMove_granted] at h
  cases a <;> simp only [BlockAgent.Takes, BlockAgent.Steps] at ht ⊢
  case cmd =>
    rw [ht.1] at h
    refine ⟨h, ?_⟩
    rintro rfl
    exact ht.2 h
  case gen =>
    rw [ht.1] at h
    exact genMove_some (get ht.2 h)
  case poll =>
    rw [ht.1] at h
    exact get ht.2 h
  case seq =>
    rcases ht with ⟨h1, h2⟩ | ⟨h1, h2⟩ <;> rw [h1] at h
    · exact .inl (get h2 h)
    · exact .inr (gateReleaseMove_some (get h2 h))
  case clk =>
    rw [ht] at h
    cases h
    rfl

/-! ### The runs -/

/-- The state in which the step of a turn is taken. -/
def State.inTurn (t : Turn) (s : State) : State := { s with schedule := [], draw := t.draw }

/-- Neither the schedule nor the draw says whether `SEQ`, `POLL` or `CMD` has a step. -/
theorem seqMove_isSome_inTurn (t : Turn) (s : State) : (s.inTurn t).seqMove.isSome = s.seqMove.isSome := by
  rw [seqMove_isSome, seqMove_isSome]
  rfl

theorem pollMove_isSome_inTurn (t : Turn) (s : State) : (s.inTurn t).pollMove.isSome = s.pollMove.isSome := by
  rw [pollMove_isSome, pollMove_isSome]
  rfl

theorem cmdMove_eq_inTurn (t : Turn) (s : State) :
    (s.inTurn t).cmdMove = .next (s.inTurn t) ↔ s.cmdMove = .next s := by
  rw [cmdMove_eq_iff, cmdMove_eq_iff]
  rfl

/-- A move is an agent's enabled step in the turn exactly when it was one before. -/
theorem takes_inTurn (a : BlockAgent) (t : Turn) (s : State) (m : Move) : a.Takes (s.inTurn t) m ↔ a.Takes s m := by
  have hn : (s.inTurn t).genMove.isSome = s.genMove.isSome := by
    unfold State.genMove
    split <;> simp_all [State.inTurn]
  have hr : (s.inTurn t).gateReleaseMove.isSome = s.gateReleaseMove.isSome := by
    unfold State.gateReleaseMove
    split <;> simp_all [State.inTurn]
  have hg : (s.inTurn t).granted m = s.granted m := by cases m <;> rfl
  cases a <;>
    simp only [BlockAgent.Takes, hg, hn, hr, Ne, cmdMove_eq_inTurn, seqMove_isSome_inTurn, pollMove_isSome_inTurn]


/-- The step of a run as the move of its turn. -/
theorem IsRun.move {turns : Nat → Turn} {r : Nat → State} (h : IsRun turns r) (n : Nat) :
    runMove (turns n).move ((r n).inTurn (turns n)) = .next (r (n + 1)) :=
  (step_scheduled (s := (r n).withTurn (turns n)) rfl).symm.trans (h n)

/-- A turn in which an agent takes a step is that step. -/
theorem IsRun.steps {turns : Nat → Turn} {r : Nat → State} (h : IsRun turns r) {a : BlockAgent} {n : Nat}
    (ht : a.Takes (r n) (turns n).move) : a.Steps ((r n).inTurn (turns n)) (r (n + 1)) :=
  steps_of_takes ((takes_inTurn a (turns n) (r n) _).2 ht) (h.move n)

/-- The rule of weak fairness: while `Stay` lasts the agent's steps are enabled, and its step reaches the goal. -/
theorem leadsTo {turns : Nat → Turn} {r : Nat → State} (hf : WeaklyFair turns r) (a : BlockAgent) (Stay Goal : State → Prop)
    {n : Nat} (h0 : Stay (r n)) (hs : ∀ k, n ≤ k → Stay (r k) → Stay (r (k + 1)) ∨ Goal (r (k + 1)))
    (he : ∀ k, n ≤ k → Stay (r k) → a.Enabled (r k))
    (ht : ∀ k, n ≤ k → Stay (r k) → a.Takes (r k) (turns k).move → Goal (r (k + 1))) : ∃ k, n ≤ k ∧ Goal (r k) := by
  by_contra hg
  have hstay : ∀ d, Stay (r (n + d)) := by
    intro d
    induction d with
    | zero => exact h0
    | succ d ih =>
      rcases hs _ (Nat.le_add_right n d) ih with h | h
      · exact h
      · exact absurd ⟨_, Nat.le_add_right n (d + 1), h⟩ hg
  have hstay' : ∀ k, n ≤ k → Stay (r k) := fun k hk => by
    have := hstay (k - n)
    rwa [Nat.add_sub_cancel' hk] at this
  obtain ⟨k, hk, h⟩ := hf a n fun k hk => he k hk (hstay' k hk)
  exact hg ⟨k + 1, Nat.le_succ_of_le hk, ht k hk (hstay' k hk) h⟩

/-- A property that some number always falls on the way to recurs. -/
theorem recurs_of_rank {r : Nat → State} {P : State → Prop} (rank : State → Nat)
    (h : ∀ n, ¬ P (r n) → ∃ k, n ≤ k ∧ (P (r k) ∨ rank (r k) < rank (r n))) : Recurs r P := by
  intro n
  induction hv : rank (r n) using Nat.strongRecOn generalizing n with
  | ind v ih =>
    by_cases hp : P (r n)
    · exact ⟨n, Nat.le_refl n, hp⟩
    · obtain ⟨k, hk, hp | hlt⟩ := h n hp
      · exact ⟨k, hk, hp⟩
      · obtain ⟨j, hj, hp⟩ := ih _ (hv ▸ hlt) k rfl
        exact ⟨j, Nat.le_trans hk hj, hp⟩

/-- A delay that is not over is changed only by a tick, or set to 0 or left to a step that ends it (R571: `CLK` lifts the
hold on `elapsed`). -/
theorem recurs_elapsed {turns : Nat → Turn} {r : Nat → State} (hr : IsRun turns r) (hf : WeaklyFair turns r)
    (f : State → Word) (hturn : ∀ s t, f (s.inTurn t) = f s)
    (hclk : ∀ s, f s.clkStep = tickDown (f s))
    (hstep : ∀ n, f (r n) ≠ 0 → (turns n).move = .clk ∨ f (r (n + 1)) = f (r n) ∨ f (r (n + 1)) = 0) :
    Recurs r (fun s => f s = 0) := by
  have htick : ∀ n, (turns n).move = .clk → f (r (n + 1)) = tickDown (f (r n)) := by
    intro n hm
    have h := hr.move n
    rw [hm] at h
    rw [← Host.Outcome.next.inj h, hclk, hturn]
  have hlt : ∀ w : Word, w ≠ 0 → (tickDown w).toNat < w.toNat := by
    intro w hw
    have : w.toNat ≠ 0 := fun h => hw (BitVec.eq_of_toNat_eq h)
    simp only [tickDown, if_neg hw]
    rw [BitVec.toNat_sub_of_le (by rw [BitVec.le_def]; simp; omega)]
    simp
    omega
  apply recurs_of_rank fun s => (f s).toNat
  intro n hn
  apply leadsTo hf .clk (fun s => f s = f (r n)) fun s => f s = 0 ∨ (f s).toNat < (f (r n)).toNat
  · rfl
  · intro k _ hk
    rcases hstep k (by rw [hk]; exact hn) with hm | h | h
    · exact .inr (.inr (by rw [htick k hm, hk]; exact hlt _ hn))
    · exact .inl (by rw [h, hk])
    · exact .inr (.inl h)
  · intro _ _ _
    trivial
  · intro k _ hk hm
    exact .inr (by rw [htick k hm, hk]; exact hlt _ hn)

/-! ### A session's steps -/

/-- The steps of the stop procedure, as R377 counts them. -/
def State.stopSteps (s : State) : Nat := s.params.stopBurstN + 1 + s.params.stopSustainN + 1 + 1

/-- The `SEQ` steps a session still takes at most (43_duty_sequencer.md R377); an emergency start that is due counts as a
step. -/
def State.seqStepsLeft (s : State) : Nat :=
  match s.seq.state with
  | .idle => if s.seq.cancel then s.stopSteps + 1 else 0
  | .rampingUp => (s.targetMag + 2 - s.seq.rampK.toNat) + 1 + (s.targetMag - 1) + s.stopSteps
  | .holding => 1 + (s.targetMag - 1) + s.stopSteps
  | .rampingDown => s.seq.rampK.toNat + s.stopSteps
  | .stopping =>
    match s.seq.stopPhase with
    | .burst => (s.params.stopBurstN - s.seq.stopCnt.toNat) + 1 + s.params.stopSustainN + 1 + 1
    | .current => 1 + s.params.stopSustainN + 1 + 1
    | .sustain => (s.params.stopSustainN - s.seq.stopCnt.toNat) + 1 + 1
    | .flush => 1 + 1
    | .reconfirm => 1

/-- Every `SEQ` step leaves fewer (R377). -/
theorem seqMove_seqStepsLeft {s t : State} (hv : s.params.Valid) (hd : s.DutyInv) (hr : s.RampInv) (hst : s.StopInv)
    (h : s.seqMove = some t) : t.seqStepsLeft < s.seqStepsLeft := by
  have hv' : s.params.maxDuty ≤ 100 ∧ 2 ≤ s.params.stopBurstN ∧ s.params.stopBurstN ≤ 255 ∧ 2 ≤ s.params.stopSustainN
      ∧ s.params.stopSustainN ≤ 255 := by
    simp [Config.Params.Valid, Config.Params.valid] at hv
    omega
  obtain ⟨v1, v2, v3, v4, v5⟩ := hv'
  have hT : s.targetMag ≤ s.params.maxDuty := hd.2
  obtain ⟨r1, r2, _⟩ := hr
  have hm : s.targetMag = s.seq.target.toInt.natAbs := rfl
  rcases seqMove_cases h with ⟨h1, h2, rfl⟩ | ⟨h1, h2, rfl⟩ | ⟨h1, h2, h3, h4, rfl⟩ | ⟨h1, h2, h3, rfl⟩
    | ⟨h1, h2, h3, h4, rfl⟩ | ⟨h1, h2, h3, rfl⟩
  · simp [State.seqStepsLeft, State.emergencyStart, startSession_eq, h1, h2, State.stopSteps]
  · rcases h1 with h1 | h1 | h1 <;> simp [State.seqStepsLeft, h1, State.stopSteps]
    have := r2 h1
    omega
  · have hk := r1 h1
    unfold State.rampUpStep
    dsimp only
    split
    · simp [State.seqStepsLeft, abortSession_eq, sendDuty_eq, h1, State.stopSteps]
    · unfold State.rampUpNext
      split
      · rename_i hle
        have hle' : s.seq.rampK.toNat ≤ s.targetMag := by simpa [sendDuty_eq, hm, State.targetMag] using hle
        have hK : (s.seq.rampK + 1).toNat = s.seq.rampK.toNat + 1 := by
          rw [BitVec.toNat_add]
          simp
          omega
        simp [State.seqStepsLeft, sendDuty_eq, h1, State.stopSteps, State.targetMag] at hK ⊢
        omega
      · simp [State.seqStepsLeft, sendDuty_eq, h1, State.stopSteps, State.targetMag]
        omega
  · unfold State.endHold
    split
    · rename_i hh
      simp [State.seqStepsLeft, h1, State.stopSteps, State.targetMag]
      omega
    · simp [State.seqStepsLeft, h1, State.stopSteps]
  · have hk := r2 h1
    unfold State.rampDownStep
    dsimp only
    split
    · simp [State.seqStepsLeft, abortSession_eq, sendDuty_eq, h1, State.stopSteps]
      omega
    · unfold State.rampDownNext
      split
      · rename_i hlt
        have hlt' : 1 < s.seq.rampK.toNat := by simpa [sendDuty_eq] using hlt
        have hK : (s.seq.rampK - 1).toNat = s.seq.rampK.toNat - 1 := by
          rw [BitVec.toNat_sub]
          simp
          omega
        simp [State.seqStepsLeft, sendDuty_eq, h1, State.stopSteps] at hK ⊢
        omega
      · simp [State.seqStepsLeft, sendDuty_eq, h1, State.stopSteps]
        omega
  · have hs := hst h1
    unfold State.stopStep
    split
    · rename_i hp
      have := hs.1 hp
      by_cases hc : (s.seq.stopCnt.toNat + 1) % 256 < s.params.stopBurstN <;>
        simp [State.seqStepsLeft, burstStep_eq, h1, hp, hc] <;> omega
    · rename_i hp
      simp [State.seqStepsLeft, currentStep_eq, h1, hp]
    · rename_i hp
      have := hs.2.1 hp
      by_cases hc : (s.seq.stopCnt.toNat + 1) % 256 < s.params.stopSustainN <;>
        simp [State.seqStepsLeft, sustainStep_eq, h1, hp, hc] <;> omega
    · rename_i hp
      unfold State.flushStep
      dsimp only
      split <;> simp [State.seqStepsLeft, chanFlush_eq, completeSession_eq, h1, hp]
    · rename_i hp
      simp [State.seqStepsLeft, State.reconfirmStep, completeSession_eq, h1, hp]

/-- While the lock is held or `CANCEL` set, `SEQ` with its wait over and the table ready has a step. -/
theorem seqMove_enabled {s : State} (hl : s.lockFree = false) (ht : s.crc.tblReady = true) (hw : s.seq.wait = 0) :
    s.seqMove.isSome = true := by
  have he : elapsed s.seq.wait = true := by simp [elapsed, hw]
  rw [seqMove_isSome]
  unfold State.seqUsesChannel
  rw [he, ht]
  revert hl
  unfold State.lockFree
  cases s.seq.state <;> cases s.seq.cancel <;> cases s.seq.stopPhase <;> simp

end Sys2Proof.Machine
end

