-- ==== Sys2Proof/Laws/PerInstr.lean ====
section
/-! SUPPORT. One statement for every command, proved per constructor: the word of a command carries the command's opcode and
operands in the three fields of 30_encoding.md R140, whatever the operands. -/

namespace Sys2Proof.Laws.Fields

/-- The fields of the assembled word (R140, R160). -/
def Statement (i : Instr) : Prop :=
  opField (encode i) = i.opcode ∧ aField (encode i) = i.aOperand ∧ bField (encode i) = i.bOperand

theorem nop : Statement .nop := by simp [Statement, encode]
theorem crcInit : Statement .crcInit := by simp [Statement, encode]
theorem crcUpdate (b : Byte) : Statement (.crcUpdate b) := by simp [Statement, encode]
theorem crcRead : Statement .crcRead := by simp [Statement, encode]
theorem tblRead (i : Nat) : Statement (.tblRead i) := by simp [Statement, encode]
theorem crcBlock (n : Nat) : Statement (.crcBlock n) := by simp [Statement, encode]
theorem txFrame (n : Nat) : Statement (.txFrame n) := by simp [Statement, encode]
theorem syncAppend (n : Nat) : Statement (.syncAppend n) := by simp [Statement, encode]
theorem syncExtract : Statement .syncExtract := by simp [Statement, encode]
theorem syncClear : Statement .syncClear := by simp [Statement, encode]
theorem decodeGv (n : Nat) : Statement (.decodeGv n) := by simp [Statement, encode]
theorem setDuty (x : Int) : Statement (.setDuty x) := by simp [Statement, encode]
theorem rampAndHold (t : Int) (h : Nat) : Statement (.rampAndHold t h) := by simp [Statement, encode]
theorem trigger (t : Int) (h : Nat) : Statement (.trigger t h) := by simp [Statement, encode]
theorem hardStop : Statement .hardStop := by simp [Statement, encode]
theorem estop : Statement .estop := by simp [Statement, encode]
theorem pollStart : Statement .pollStart := by simp [Statement, encode]
theorem pollStartTemp (d : Nat) : Statement (.pollStartTemp d) := by simp [Statement, encode]
theorem pollPause : Statement .pollPause := by simp [Statement, encode]
theorem pollResume : Statement .pollResume := by simp [Statement, encode]
theorem pollStop : Statement .pollStop := by simp [Statement, encode]
theorem statRead (i : Nat) : Statement (.statRead i) := by simp [Statement, encode]
theorem statusClear : Statement .statusClear := by simp [Statement, encode]

end Sys2Proof.Laws.Fields
end

