-- ==== Sys2Proof/Machine/HostProgram.lean ====
section
/-! DEFINITION. The notation of host programs (30_encoding.md R160, R161): the assembly text of a command, the directives,
the pseudo-instructions, and the host moves each stands for. No step reads this file. -/

namespace Sys2Proof.Machine

/-- The mnemonic of each row of R143. -/
def mnemonicOf : Instr → String
  | .nop => "NOP"
  | .crcInit => "CRC_INIT"
  | .crcUpdate _ => "CRC_UPDATE"
  | .crcRead => "CRC_READ"
  | .tblRead _ => "TBL_READ"
  | .crcBlock _ => "CRC_BLOCK"
  | .txFrame _ => "TX_FRAME"
  | .syncAppend _ => "SYNC_APPEND"
  | .syncExtract => "SYNC_EXTRACT"
  | .syncClear => "SYNC_CLEAR"
  | .decodeGv _ => "DECODE_GV"
  | .setDuty _ => "SET_DUTY"
  | .rampAndHold _ _ => "RAMP_AND_HOLD"
  | .trigger _ _ => "TRIGGER"
  | .hardStop => "HARD_STOP"
  | .estop => "ESTOP"
  | .pollStart => "POLL_START"
  | .pollStartTemp _ => "POLL_START_TEMP"
  | .pollPause => "POLL_PAUSE"
  | .pollResume => "POLL_RESUME"
  | .pollStop => "POLL_STOP"
  | .statRead _ => "STAT_READ"
  | .statusClear => "STATUS_CLEAR"

/-- The operands of a command as assembly text: `a`, `b`, or `a, b`, in decimal (R160). -/
def operandText : Instr → String
  | .crcUpdate b => " " ++ toString b.toNat
  | .tblRead i => " " ++ toString i
  | .statRead i => " " ++ toString i
  | .crcBlock n => " " ++ toString n
  | .txFrame n => " " ++ toString n
  | .syncAppend n => " " ++ toString n
  | .decodeGv n => " " ++ toString n
  | .pollStartTemp d => " " ++ toString d
  | .setDuty x => " " ++ toString x
  | .rampAndHold t h => " " ++ toString t ++ ", " ++ toString h
  | .trigger t h => " " ++ toString t ++ ", " ++ toString h
  | .nop | .crcInit | .crcRead | .syncExtract | .syncClear | .hardStop | .estop | .pollStart | .pollPause
  | .pollResume | .pollStop | .statusClear => ""

/-- One line of assembly (R160). -/
def assembly (i : Instr) : String := mnemonicOf i ++ operandText i

/-- A line of a host program (R160). -/
inductive HostItem where
  /-- A command, assembled with unused fields 0. -/
  | command (i : Instr)
  /-- `.din b0, b1, …`. -/
  | din (bs : List Byte)
  /-- `.estop`. -/
  | estop
  /-- `.wait t`. -/
  | wait (t : Nat)
  deriving DecidableEq, Repr

/-- The moves a line stands for. A `.wait t` is its least schedule: t ticks and nothing presented (R160). -/
def HostItem.moves : HostItem → List Move
  | .command i => [.hostPresent (encode i)]
  | .din bs => bs.map .hostPush
  | .estop => [.hostEstop]
  | .wait t => List.replicate t .clk

/-- `SEND p` (R161). -/
def pseudoSend (p : List Byte) : List HostItem := [.din p, .command (.txFrame p.length)]

/-- `CRC bytes b` (R161). -/
def pseudoCrc (bs : List Byte) : List HostItem :=
  [.command .crcInit, .din bs, .command (.crcBlock bs.length), .command .crcRead]

/-- `FEED b` (R161). -/
def pseudoFeed (bs : List Byte) : List HostItem := [.din bs, .command (.syncAppend bs.length)]

/-- `DECODE q` (R161). -/
def pseudoDecode (q : List Byte) : List HostItem := [.din q, .command (.decodeGv q.length)]

/-- `STOP` (R161). -/
def pseudoStop : List HostItem := [.command .hardStop]

end Sys2Proof.Machine
end

