-- ==== Sys2Proof/Tests/Slice0.lean ====
section
/-! SUPPORT. Tests of the model and a witness for each statement's hypotheses. Every expected value is one that spec/ states:
the vectors of 95_test_vectors.md are named at each test. -/

open Sys2Proof Sys2Proof.Machine

namespace Sys2Proof.Tests

/-! ### Small states -/

/-- The parameters of 95_test_vectors.md ("Conventions used below") with the small stop. -/
def params : Config.Params :=
  { stopMode := .rampDown, tableImpl := .rom, stopBurstN := 2, stopSustainN := 2 }

/-- A channel that takes every write. -/
def okDraw : ChanDraw := { write := .ok, read := .bytes 0, flushKeep := 0 }

/-- A channel whose write fails after one byte and whose read fails. -/
def errDraw : ChanDraw := { write := .err 1, read := .err, flushKeep := 0 }

/-- The block after reset with those parameters. -/
def idle : State := State.resetWith params Channel.quiet okDraw [] 0

/-- The same block with the table still to be generated. -/
def generating : State := State.resetWith { params with tableImpl := .generator } Channel.quiet okDraw [] 0

/-- A session that holds at duty 3, in a RAMP_AND_HOLD session (TV-ST7). -/
def holding : State :=
  { idle with seq := { idle.seq with state := .holding, target := 3, rampK := 4, duty := 3, sessionKind := .ramp } }

/-- A session ramping up to −5, in an accepted TRIGGER session (TV-ST8). -/
def ramping : State :=
  { idle with
    seq := { idle.seq with
      state := .rampingUp, target := -5, rampK := 1, sessionKind := .gated, sessionGated := true }
    gate := { idle.gate with state := .busy } }

/-- A session ramping down from 3, its next frame that of duty 1. -/
def descending : State :=
  { idle with
    seq := { idle.seq with state := .rampingDown, target := 3, rampK := 1, duty := 2, sessionKind := .ramp } }

/-- The stop procedure at its first step. -/
def stopping : State :=
  { idle with seq := { idle.seq with state := .stopping, sessionKind := .hard } }

/-- A running poller with its tick due. -/
def polling : State := { idle with poll := { idle.poll with state := .running } }

/-- A running poller whose response is due. -/
def listening : State := { polling with poll := { polling.poll with phase := .resp } }

/-- `DIN` filled with given bytes. -/
def withDinBytes (s : State) (bs : List Byte) : State := { s with din := bs }

/-- A command word at the port and `CMD` to move next. -/
def presenting (s : State) (w : Word) : State :=
  { s with cmdPort := [w], schedule := [{ move := .cmd, draw := s.draw }] }

/-- One field of the next state. -/
def seen {α : Type} (f : State → α) : Host.Outcome State Fault Refusal → Option α
  | .next t => some (f t)
  | .fault _ => none
  | .refused _ => none

/-! ### WellFormed refuses an operand outside its field -/

theorem test_wf_refuses_tblRead : (Instr.tblRead 256).wf = false := by decide
theorem test_wf_refuses_crcBlock : (Instr.crcBlock 65536).wf = false := by decide
theorem test_wf_refuses_txFrame : (Instr.txFrame 65536).wf = false := by decide
theorem test_wf_refuses_syncAppend : (Instr.syncAppend 65536).wf = false := by decide
theorem test_wf_refuses_decodeGv : (Instr.decodeGv 65536).wf = false := by decide
theorem test_wf_refuses_setDuty_high : (Instr.setDuty 32768).wf = false := by decide
theorem test_wf_refuses_setDuty_low : (Instr.setDuty (-32769)).wf = false := by decide
theorem test_wf_refuses_rampAndHold_pct : (Instr.rampAndHold 128 0).wf = false := by decide
theorem test_wf_refuses_rampAndHold_pct_low : (Instr.rampAndHold (-129) 0).wf = false := by decide
theorem test_wf_refuses_rampAndHold_hold : (Instr.rampAndHold 0 65536).wf = false := by decide
theorem test_wf_refuses_trigger_pct : (Instr.trigger 128 0).wf = false := by decide
theorem test_wf_refuses_trigger_pct_low : (Instr.trigger (-129) 0).wf = false := by decide
theorem test_wf_refuses_trigger_hold : (Instr.trigger 0 65536).wf = false := by decide
theorem test_wf_refuses_pollStartTemp : (Instr.pollStartTemp 65536).wf = false := by decide
theorem test_wf_refuses_statRead : (Instr.statRead 256).wf = false := by decide

/-! ### Decoding: the words of TV-E1 to TV-E40 (95_test_vectors.md section 2.2), written out from R140 and R143 -/

theorem test_decode_nop : decode 0x00000000 = .instr .nop ∧ encode .nop = 0x00000000 := by decide
theorem test_decode_crcInit : decode 0x01000000 = .instr .crcInit ∧ encode .crcInit = 0x01000000 := by decide
theorem test_decode_crcUpdate : decode 0x02310000 = .instr (.crcUpdate 0x31) ∧ encode (.crcUpdate 0x31) = 0x02310000 := by decide
theorem test_decode_crcRead : decode 0x03000000 = .instr .crcRead ∧ encode .crcRead = 0x03000000 := by decide
theorem test_decode_tblRead : decode 0x04FF0000 = .instr (.tblRead 255) ∧ encode (.tblRead 255) = 0x04FF0000 := by decide
theorem test_decode_crcBlock : decode 0x05000009 = .instr (.crcBlock 9) ∧ encode (.crcBlock 9) = 0x05000009 := by decide
theorem test_decode_txFrame : decode 0x10000005 = .instr (.txFrame 5) ∧ encode (.txFrame 5) = 0x10000005 := by decide
theorem test_decode_syncAppend : decode 0x20000004 = .instr (.syncAppend 4) ∧ encode (.syncAppend 4) = 0x20000004 := by decide
theorem test_decode_syncExtract : decode 0x21000000 = .instr .syncExtract ∧ encode .syncExtract = 0x21000000 := by decide
theorem test_decode_syncClear : decode 0x22000000 = .instr .syncClear ∧ encode .syncClear = 0x22000000 := by decide
theorem test_decode_decodeGv : decode 0x28000035 = .instr (.decodeGv 53) ∧ encode (.decodeGv 53) = 0x28000035 := by decide
theorem test_decode_setDuty : decode 0x3000FFF6 = .instr (.setDuty (-10)) ∧ encode (.setDuty (-10)) = 0x3000FFF6 := by decide
theorem test_decode_rampAndHold : decode 0x310A03E8 = .instr (.rampAndHold 10 1000) ∧ encode (.rampAndHold 10 1000) = 0x310A03E8 := by decide
theorem test_decode_rampAndHold_min : decode 0x31800000 = .instr (.rampAndHold (-128) 0) ∧ encode (.rampAndHold (-128) 0) = 0x31800000 := by decide
theorem test_decode_trigger : decode 0x32FB01F4 = .instr (.trigger (-5) 500) ∧ encode (.trigger (-5) 500) = 0x32FB01F4 := by decide
theorem test_decode_hardStop : decode 0x33000000 = .instr .hardStop ∧ encode .hardStop = 0x33000000 := by decide
theorem test_decode_estop : decode 0x34000000 = .instr .estop ∧ encode .estop = 0x34000000 := by decide
theorem test_decode_pollStart : decode 0x40000000 = .instr .pollStart ∧ encode .pollStart = 0x40000000 := by decide
theorem test_decode_pollStartTemp : decode 0x41001388 = .instr (.pollStartTemp 5000) ∧ encode (.pollStartTemp 5000) = 0x41001388 := by decide
theorem test_decode_pollPause : decode 0x42000000 = .instr .pollPause ∧ encode .pollPause = 0x42000000 := by decide
theorem test_decode_pollResume : decode 0x43000000 = .instr .pollResume ∧ encode .pollResume = 0x43000000 := by decide
theorem test_decode_pollStop : decode 0x44000000 = .instr .pollStop ∧ encode .pollStop = 0x44000000 := by decide
theorem test_decode_statRead : decode 0x50110000 = .instr (.statRead 17) ∧ encode (.statRead 17) = 0x50110000 := by decide
theorem test_decode_statusClear : decode 0x51000000 = .instr .statusClear ∧ encode .statusClear = 0x51000000 := by decide
theorem test_decode_ignores_unused :
    decode 0x00ABCDEF = .instr .nop ∧ decode 0x01FFFFFF = .instr .crcInit ∧ decode 0x30FF0096 = .instr (.setDuty 150)
    ∧ decode 0x317F0000 = .instr (.rampAndHold 127 0) := by decide
theorem test_decode_reserved :
    decode 0x06000000 = .reserved 0x06 ∧ decode 0x29000010 = .reserved 0x29 ∧ decode 0xFF123456 = .reserved 0xFF
    ∧ decode 0x35000000 = .reserved 0x35 := by decide
theorem test_decodeTableWord :
    decodeTableWord 32 0x32FB01F4 = some (.trigger (-5) 500) ∧ decodeTableWord 32 0x06000000 = none := by decide
theorem test_assembly : assembly (.rampAndHold 10 1000) = "RAMP_AND_HOLD 10, 1000" := by decide

/-! ### One step of each command -/

/-- The encoded values of R66. -/
theorem test_stopPhase_codes :
    [StopPhase.burst, .current, .sustain, .flush, .reconfirm].map StopPhase.code = [0, 1, 2, 3, 4] := by decide

/-- TV-ST13. -/
theorem test_nop : seen (·.cmdIdx) (exec .nop idle) = some 1 := by decide
/-- TV-C13. -/
theorem test_crcInit : seen (·.crc.crcAcc) (exec .crcInit (idle.setCrcAcc 0x31C3)) = some 0x0000 := by decide
/-- TV-C2. -/
theorem test_crcUpdate : seen (·.crc.crcAcc) (exec (.crcUpdate 0x04) idle) = some 0x4084 := by decide
/-- P1, word 5: from 0x2672 the byte 0x32 gives 0x20B5. -/
theorem test_crcUpdate_running :
    seen (·.crc.crcAcc) (exec (.crcUpdate 0x32) (idle.setCrcAcc 0x2672)) = some 0x20B5 := by decide
/-- TV-C16: CRC_UPDATE holds before the table is ready. -/
theorem test_crcUpdate_holds : seen (·.cmdIdx) (exec (.crcUpdate 0x04) generating) = some 0 := by decide
/-- TV-C15. -/
theorem test_crcRead :
    seen (·.out) (exec .crcRead (idle.setCrcAcc 0x4084)) = some [.result 0x00004084] := by decide
/-- TV-C1, the last entry. -/
theorem test_tblRead : seen (·.out) (exec (.tblRead 255) idle) = some [.result 0x00001EF0] := by decide
/-- TV-C6. -/
theorem test_crcBlock :
    seen (·.crc.crcAcc) (exec (.crcBlock 5) (withDinBytes idle [0x05, 0x00, 0x00, 0x27, 0x10])) = some 0xAE17 := by decide
/-- TV-C17. -/
theorem test_crcBlock_tooLong :
    seen (·.out) (exec (.crcBlock 1025) (presenting idle 0x05000401)) = some [.event (.illegalCmd 0x05000401)] := by decide
/-- TV-FT1, the writing step. -/
theorem test_txFrame :
    seen (·.wire) (exec (.txFrame 1) { idle with cmdData := some [0x04] })
      = some [.write [0x02, 0x01, 0x04, 0x40, 0x84, 0x03] .ok] := by decide
/-- TV-FT3. -/
theorem test_txFrame_err :
    seen (·.out) (exec (.txFrame 1) { idle with cmdData := some [0x04], draw := errDraw })
      = some [.event (.ioErrWrite .cmd)] := by decide
/-- P2, word 0. -/
theorem test_syncAppend :
    seen (·.acc) (exec (.syncAppend 4) (withDinBytes idle [0x02, 0x05, 0x05, 0x00])) = some [0x02, 0x05, 0x05, 0x00] := by
  decide
/-- P2, word 3. -/
theorem test_syncExtract :
    seen (·.out) (exec .syncExtract { idle with
        acc := [0x02, 0x05, 0x05, 0x00, 0x00, 0x27, 0x10, 0xAE, 0x17, 0x03, 0x02, 0x01] })
      = some [.payload [0x05, 0x00, 0x00, 0x27, 0x10], .result 1] := by decide
/-- P2, word 5. -/
theorem test_syncExtract_crcErr :
    seen (·.out) (exec .syncExtract { idle with acc := [0x02, 0x01, 0x04, 0x40, 0x85, 0x03] })
      = some [.event (.crcErr 0), .result 0] := by decide
/-- R264. -/
theorem test_syncClear : seen (·.acc) (exec .syncClear { idle with acc := [0x02] }) = some [] := by decide
/-- R262: refused while the poller is not STOPPED. -/
theorem test_syncClear_refused :
    seen (·.out) (exec .syncClear (presenting polling 0x22000000)) = some [.event (.ownErr 0x22000000)] := by decide
/-- TV-P8's payload: just the echo byte. -/
theorem test_decodeGv :
    seen (·.out) (exec (.decodeGv 1) (withDinBytes idle [0x04])) = some [.decodeNull [0x04] .short] := by decide
/-- TV-S2 (W12): duty 150 goes out as 100, wire integer 100000 = 00 01 86 A0. -/
theorem test_setDuty : seen (·.seq.duty) (exec (.setDuty 150) idle) = some 100 := by decide
/-- TV-FE6 is the frame of duty 10. -/
theorem test_setDuty_frame :
    seen (·.wire) (exec (.setDuty 10) idle)
      = some [.write [0x02, 0x05, 0x05, 0x00, 0x00, 0x27, 0x10, 0xAE, 0x17, 0x03] .ok] := by decide
/-- P3: the session starts. -/
theorem test_rampAndHold :
    seen (fun t => (t.seq.state, t.seq.target, t.seq.rampK)) (exec (.rampAndHold 3 0) idle) = some (.rampingUp, 3, 1) := by
  decide
/-- TV-E35: 127 is clamped to MAX_DUTY (R351). -/
theorem test_rampAndHold_clamps : seen (·.seq.target) (exec (.rampAndHold 127 0) idle) = some 100 := by decide
/-- P4, first trigger. -/
theorem test_trigger :
    seen (fun t => (t.gate.state, t.seq.sessionKind)) (exec (.trigger 1 0) idle) = some (.busy, .gated) := by decide
/-- P4, second trigger. -/
theorem test_trigger_rejected :
    seen (·.out) (exec (.trigger 1 0) (presenting ramping 0x32010000)) = some [.event (.triggerReject 0x32010000)] := by
  decide
/-- R381. -/
theorem test_hardStop :
    seen (fun t => (t.seq.state, t.seq.stopPhase, t.seq.sessionKind)) (exec .hardStop idle)
      = some (.stopping, .burst, .hard) := by decide
/-- R342: HARD_STOP waits for the session lock. -/
theorem test_hardStop_holds : seen (·.cmdIdx) (exec .hardStop holding) = some 0 := by decide
/-- R380: ESTOP never holds. -/
theorem test_estop : seen (fun t => (t.seq.cancel, t.cmdIdx)) (exec .estop holding) = some (true, 1) := by decide
/-- R430. -/
theorem test_pollStart :
    seen (fun t => (t.poll.state, t.poll.t0, t.acc)) (exec .pollStart { idle with now := 7, acc := [0x02] })
      = some (.running, 7, []) := by decide
/-- TV-P9. -/
theorem test_pollStart_again : seen (·.poll.t0) (exec .pollStart { polling with now := 7 }) = some 0 := by decide
/-- R431. -/
theorem test_pollStartTemp :
    seen (fun t => (t.poll.tempActive, t.poll.tempLeft)) (exec (.pollStartTemp 5000) idle) = some (true, 5000) := by decide
/-- R432. -/
theorem test_pollPause : seen (·.poll.state) (exec .pollPause listening) = some .paused := by decide
/-- R433: only a paused poller resumes. -/
theorem test_pollResume : seen (·.poll.state) (exec .pollResume idle) = some .stopped := by decide
/-- P5: LogClose(380). -/
theorem test_pollStop : seen (·.log) (exec .pollStop { polling with now := 380 }) = some [.logClose 380] := by decide
/-- TV-ST7. -/
theorem test_statRead_holding : seen (·.out) (exec (.statRead 0) holding) = some [.result 0x00002082] := by decide
/-- TV-ST8. -/
theorem test_statRead_ramping : seen (·.out) (exec (.statRead 0) ramping) = some [.result 0x080040A1] := by decide
/-- TV-ST3, STATUS_CLEAR. -/
theorem test_statusClear : seen (·.sticky) (exec .statusClear { idle with sticky := 0x004 }) = some 0 := by decide

/-! ### Steps of the other agents -/

/-- R201: the first of the eight iterations of entry 0 leaves `GEN_J` at 1. -/
theorem test_gen : seen (·.crc.genJ) (runMove .gen generating) = some 1 := by decide
/-- P3: the first frame of the ramp to 3 is D(1); TV-FE8 is D(−1). -/
theorem test_seq_rampUp :
    seen (·.wire) (runMove .seq ramping)
      = some [.write [0x02, 0x05, 0x05, 0xFF, 0xFF, 0xFC, 0x18, 0x62, 0x02, 0x03] .ok] := by decide
/-- R357: an emergency stop cuts the hold short. -/
theorem test_seq_cancel : seen (·.seq.state) (runMove .seq holding.setCancel) = some .stopping := by decide
/-- R374: the flush step. -/
theorem test_seq_flush :
    seen (·.wire) (runMove .seq { stopping with seq := { stopping.seq with stopPhase := .flush } }) = some [.flush] := by
  decide
/-- P5, t = 0: the request. -/
theorem test_poll_send :
    seen (·.wire) (runMove .poll polling) = some [.write [0x02, 0x01, 0x04, 0x40, 0x84, 0x03] .ok] := by decide
/-- TV-P4. -/
theorem test_poll_readErr :
    seen (fun t => (t.out, t.poll.phase, t.poll.wait)) (runMove .poll { listening with draw := errDraw })
      = some ([.event (.ioErrRead .poll)], .tick, 100) := by decide
/-- R44: a counter at 0 stays there. -/
theorem test_clk :
    seen (fun t => (t.now, t.gate.wait, t.poll.wait)) (runMove .clk { idle with gate := { idle.gate with wait := 2 } })
      = some (1, 1, 0) := by decide
/-- R44: `NOW` wraps. -/
theorem test_clk_wraps : seen (·.now) (runMove .clk { idle with now := 0xFFFFFFFF }) = some 0 := by decide
/-- R392. -/
theorem test_gateRelease :
    seen (·.gate.state) (runMove .gateRelease { idle with gate := { state := .cooldown, wait := 0 } }) = some .idle := by
  decide
/-- R112: SEQ before CMD. -/
theorem test_arbiter :
    seen (·.seq.rampK) (runMove .arbiter (presenting ramping 0x3000000A)) = some 2 := by decide
/-- R550: a reset leaves the channel alone. -/
theorem test_reset :
    seen (fun t => (t.chan.tx, t.cmdIdx)) (runMove .hostReset { idle with cmdIdx := 5, chan := { rx := [], tx := [0x02], line := [] } })
      = some ([0x02], 0) := by decide
/-- The first step of a program placed by `withFetchWord`. -/
theorem test_withFetchWord : seen (·.out) (step (idle.withFetchWord 32 0x03000000)) = some [.result 0] := by decide
/-- TV-C3. -/
theorem test_crc16_check :
    crc16 romTable [0x31, 0x32, 0x33, 0x34, 0x35, 0x36, 0x37, 0x38, 0x39] = 0x31C3 := by decide
/-- TV-F9: the counterexample to R269's second half. -/
theorem test_extract_counterexample :
    extract romTable [0x02, 0x01, 0x02, 0x21, 0x42, 0x03, 0x02, 0x01, 0x04, 0x40, 0x84, 0x03]
      = ⟨[], [.crcErr 0], [0x02, 0x21, 0x42, 0x03, 0x02, 0x01, 0x04, 0x40, 0x84, 0x03]⟩ := by decide

/-! ### Witnesses: a concrete state and operands that meet each statement's hypotheses together, clause by clause -/

theorem witness_DecodeInvertsEncode :
    (Instr.rampAndHold (-128) 65535).WellFormed ∧ (Instr.trigger 127 0).WellFormed ∧ (Instr.setDuty (-32768)).WellFormed
    ∧ (Instr.setDuty 32767).WellFormed ∧ (Instr.tblRead 255).WellFormed ∧ (Instr.statRead 0).WellFormed
    ∧ (Instr.crcBlock 65535).WellFormed ∧ (Instr.pollStartTemp 65535).WellFormed ∧ Instr.nop.WellFormed := by decide

theorem witness_DecodeReadsExactlyTheUsedFields :
    decode 0x30000096 = .instr (.setDuty 150) ∧ opField 0x30FF0096 = opField 0x30000096
    ∧ usesA (.setDuty 150) = false ∧ bField 0x30FF0096 = bField 0x30000096
    ∧ decode 0x317FFFFF = .instr (.rampAndHold 127 65535) ∧ usesA (.rampAndHold 127 65535) = true := by decide

theorem witness_ReservedOpcodesAreExactlyTheListedOnes :
    (∀ op ∈ [0x06, 0x0F, 0x11, 0x1F, 0x23, 0x27, 0x29, 0x2F, 0x35, 0x3F, 0x45, 0x4F, 0x52, 0xFF], reservedOpcode op)
    ∧ ∀ op ∈ [0x00, 0x05, 0x10, 0x20, 0x22, 0x28, 0x30, 0x34, 0x40, 0x44, 0x50, 0x51], ¬ reservedOpcode op := by
  unfold reservedOpcode
  decide

theorem witness_StepRunsTheDecodedCommand :
    (presenting idle 0x3000000A).cmdPort = [0x3000000A]
    ∧ (presenting idle 0x3000000A).schedule = [{ move := .cmd, draw := okDraw }]
    ∧ decode 0x3000000A = .instr (.setDuty 10)
    ∧ (idle.setCancel.seqMove = some idle.setCancel.emergencyStart ∧ idle.seqMove = none)
    ∧ (polling.pollMove = some polling.pollSend ∧ idle.pollMove = none) ∧ idle.cmdPort = [] :=
  ⟨by decide, by decide, by decide, ⟨rfl, rfl⟩, ⟨rfl, rfl⟩, by decide⟩

theorem witness_ReservedWordRaisesIllegalCmd :
    (presenting idle 0x06000000).cmdPort = [0x06000000]
    ∧ (presenting idle 0x06000000).schedule = [{ move := .cmd, draw := okDraw }]
    ∧ reservedOpcode (opField 0x06000000).toNat := by
  refine ⟨by decide, by decide, ?_⟩
  unfold reservedOpcode
  decide

theorem witness_CommandRetiresOnceOrHolds :
    exec .nop idle = .next idle.retire ∧ exec .hardStop holding = .next holding
    ∧ exec (.txFrame 0) idle = .next { idle with din := [], cmdData := some [] } := ⟨rfl, rfl, rfl⟩

theorem witness_CommandsHoldForTheTableAndTheLock :
    (needsTable (.crcUpdate 0) = true ∧ generating.crc.tblReady = false)
    ∧ params.tableImpl = .rom
    ∧ (holding.seq.state ≠ .idle ∧ idle.setCancel.seq.cancel = true)
    ∧ ({ holding with cmdData := some [0x04] } : State).cmdData = some [0x04] := by decide

/-- `DIN_DEPTH` is 1024: lengths 1025, 1024 and 1 against an empty `DIN`, and a push at both sides of a full `DIN`. -/
theorem witness_DinIsPushedCheckedAndAwaited :
    (dinCount (.crcBlock 1025) = some 1025 ∧ idle.cmdData = none ∧ idle.crc.tblReady = true
      ∧ idle.params.dinDepth < 1025 ∧ 1024 ≤ idle.params.dinDepth ∧ idle.din.length < 1)
    ∧ (dinCount (.decodeGv 1) = some 1 ∧ needsTable (.decodeGv 1) = false)
    ∧ (withDinBytes { idle with params := { params with dinDepth := 2 } } [1]).din.length < 2
    ∧ 2 ≤ (withDinBytes { idle with params := { params with dinDepth := 2 } } [1, 2]).din.length := by decide

theorem witness_CrcUpdateStepsTheAccumulator : idle.crc.tblReady = true ∧ generating.crc.tblReady = false := by decide

/-- The CRC unit of a ROM block meets its invariant. -/
theorem idle_crcInv : idle.crc.Inv :=
  ⟨romTable_length, fun _ => rfl, fun h => absurd h (by decide)⟩

theorem witness_TblReadEmitsTheEntry : idle.crc.tblReady = true ∧ 255 < 256 ∧ idle.crc.Inv :=
  ⟨by decide, by decide, idle_crcInv⟩

theorem witness_CrcBlockEqualsTheUpdates :
    idle.crc.tblReady = true ∧ (withDinBytes idle [1, 2]).din = [1] ++ [2] ∧ idle.din = [] ++ []
    ∧ [(1 : Byte)].length ≤ idle.params.dinDepth := by decide

theorem witness_GeneratorTakesExactly2048Steps :
    generating.crc.tbl.length = 256 ∧ (generating.params.tableImpl = .generator ∧ idle.crc.tblReady = true
      ∧ idle.params.tableImpl = .rom) ∧ generating.crc.tblReady = false ∧ generating.crc.genI = 0
    ∧ generating.crc.genJ = 0 ∧ generating.crc.genCrc = 0 ∧ generating.crc.genC = 0 := by
  refine ⟨by simp [generating, State.resetWith, CrcUnit.resetWith, resetTable], ?_⟩
  decide

theorem witness_CrcResidueZerosAndLinearity : [(0x04 : Byte), 0x40].length = [(0x05 : Byte), 0x06].length := by decide

theorem witness_CrcStateHasNoOtherWriter :
    (presenting idle 0x02040000).nextTurn.move ≠ .hostReset
    ∧ seen (·.crc.crcAcc) (step (presenting idle 0x02040000)) = some 0x4084
    ∧ (presenting idle 0x02040000).crc.tblReady = true := by decide

/-- The lengths 0, 255, 256 and 65535. -/
theorem witness_FrameLayout :
    ([] : List Byte).length ≤ 255 ∧ (List.replicate 255 (0 : Byte)).length ≤ 255
    ∧ 256 ≤ (List.replicate 256 (0 : Byte)).length ∧ (List.replicate 65535 (0 : Byte)).length ≤ 65535 :=
  ⟨Nat.zero_le _, le_of_eq List.length_replicate, le_of_eq List.length_replicate.symm, le_of_eq List.length_replicate⟩

theorem witness_ExtractInvertsEncode :
    ([] : List Byte).length ≤ 255 ∧ (List.replicate 255 (0 : Byte)).length ≤ 255 :=
  ⟨Nat.zero_le _, le_of_eq List.length_replicate⟩

theorem witness_FragmentedFrameIsFoundOnce :
    [(0x04 : Byte)].length ≤ 255 ∧ encodeFrame romTable [0x04] = [0x02] ++ [0x01, 0x04, 0x40, 0x84, 0x03]
    ∧ encodeFrame romTable [0x04] = [0x02, 0x01, 0x04, 0x40, 0x84] ++ [0x03]
    ∧ idle.params.Valid ∧ idle.crc.tbl = romTable ∧ idle.acc = [] :=
  ⟨by decide, by decide, by decide, by decide, rfl, rfl⟩

theorem witness_CorruptFramesAreReportedAndSkipped :
    [(0x04 : Byte)].length ≤ 255 ∧ (0x4085 : Half) ≠ crc16 romTable [0x04] ∧ (0x04 : Byte) ≠ 0x03
    ∧ ∀ b ∈ [(0x55 : Byte), 0x03], b ≠ 0x02 := by decide

theorem witness_BytesWithoutStartAreKeptAndNotFound : ∀ b ∈ [(0x03 : Byte), 0x01, 0x55], b ≠ 0x02 := by decide

theorem witness_TxFrameTakesThenWrites :
    (idle.crc.tblReady = true ∧ idle.cmdData = none ∧ 0 ≤ idle.params.dinDepth
      ∧ 1 ≤ (withDinBytes idle [0x04]).din.length)
    ∧ (idle.seq.state = .idle ∧ idle.seq.cancel = false ∧ idle.draw.write = .ok)
    ∧ ({ idle with draw := errDraw, cmdData := some [0x04] } : State).draw.write = .err 1 := by decide

/-- `RX_CAP` is lowered to 3 so that the clauses meet at its edge: 2 bytes held, 1 fits and 2 overflow. -/
theorem witness_SyncAppendAndSyncClear :
    (let s := withDinBytes { idle with acc := [1, 2], params := { params with rxCap := 3 } } [3, 4];
      2 ≤ s.params.dinDepth ∧ 2 ≤ s.din.length ∧ s.poll.state = .stopped ∧ s.acc.length + 1 ≤ s.params.rxCap
      ∧ s.acc.length ≤ s.params.rxCap ∧ s.params.rxCap < s.acc.length + 2)
    ∧ polling.poll.state ≠ .stopped ∧ 1 ≤ (withDinBytes polling [3]).din.length := by decide

/-- With the threshold lowered to 1: a remainder of one byte stays, one of two is cleared. -/
theorem witness_SyncExtractEmitsEventsPayloadsAndCount :
    idle.crc.tblReady = true ∧ idle.poll.state = .stopped ∧ polling.crc.tblReady = true ∧ polling.poll.state ≠ .stopped
    ∧ ¬ 1 < (extract romTable [0x55]).rem.length ∧ 1 < (extract romTable [0x55, 0x56]).rem.length := by decide

/-- Stripped lengths 45, 46, 51 and 52, with the echo byte and without it. -/
theorem witness_DecodeGvGatesAndCommand :
    (0x04 :: List.replicate 45 (0x05 : Byte) = 0x04 :: List.replicate 45 0x05
      ∧ (List.replicate 45 (0x05 : Byte)).length < 46)
    ∧ ((List.replicate 46 (0x05 : Byte)).head? ≠ some 0x04 ∧ 46 ≤ (List.replicate 46 (0x05 : Byte)).length)
    ∧ (List.replicate 51 (0x05 : Byte)).length < 52 ∧ 52 ≤ (List.replicate 52 (0x05 : Byte)).length
    ∧ 1 ≤ idle.params.dinDepth ∧ 1 ≤ (withDinBytes idle [0x04]).din.length := by decide

/-- A sample at the ends of its fields' ranges whose packed body does not begin with the echo byte. -/
def extremes : Telemetry where
  tempFet := -32768
  tempMotor := 32767
  currentMotor := -2147483648
  currentIn := 2147483647
  id := 0
  iq := -1
  duty := 32767
  rpm := 12345
  vIn := -32768
  ampHours := 2147483647
  ampHoursCharged := -2147483648
  wattHours := 1
  wattHoursCharged := 0
  tachometer := -1
  tachometerAbs := 2147483647

theorem witness_PackedTelemetryDecodes : extremes.InRange ∧ (packTelemetry extremes).head? ≠ some 0x04 := by
  unfold Telemetry.InRange
  decide

theorem witness_SetDutyWritesTheClampedDuty :
    (idle.crc.tblReady = true ∧ idle.seq.state = .idle ∧ idle.seq.cancel = false ∧ idle.draw.write = .ok)
    ∧ ({ idle with draw := errDraw } : State).draw.write = .err 1
    ∧ saturate 100 100 = 100 ∧ saturate 100 101 = 100 ∧ saturate 100 (-101) = -100 := by decide

/-- An idle sequencer beside a running poller. -/
theorem witness_RampAndHoldStartsASession :
    (idle.crc.tblReady = true ∧ idle.seq.state = .idle ∧ idle.seq.cancel = false ∧ ¬ idle.pausesPoller)
    ∧ (polling.crc.tblReady = true ∧ polling.seq.state = .idle ∧ polling.seq.cancel = false ∧ polling.pausesPoller) := by
  unfold State.pausesPoller
  decide

theorem witness_TriggerIsAcceptedOrRejectedAtOnce :
    (idle.crc.tblReady = true ∧ idle.gate.state = .idle ∧ idle.seq.state = .idle ∧ idle.seq.cancel = false
      ∧ ¬ idle.pausesPoller)
    ∧ (polling.crc.tblReady = true ∧ polling.gate.state = .idle ∧ polling.seq.state = .idle ∧ polling.seq.cancel = false
      ∧ polling.pausesPoller)
    ∧ (ramping.crc.tblReady = true ∧ ramping.gate.state ≠ .idle)
    ∧ (holding.gate.state = .idle ∧ holding.seq.state ≠ .idle) ∧ idle.setCancel.seq.cancel = true := by
  unfold State.pausesPoller
  decide

theorem witness_HardStopEntersTheStopProcedure :
    (idle.crc.tblReady = true ∧ idle.seq.state = .idle ∧ idle.seq.cancel = false ∧ ¬ idle.pausesPoller)
    ∧ (polling.crc.tblReady = true ∧ polling.pausesPoller) := by
  unfold State.pausesPoller
  decide

theorem witness_EstopSetsCancelAndThePinIsNeverBlocked :
    ({ idle with schedule := [{ move := .hostEstop, draw := okDraw }] } : State).schedule
      = { move := .hostEstop, draw := okDraw } :: []
    ∧ (idle.setCancel.seq.state = .idle ∧ idle.setCancel.seq.cancel = true ∧ ¬ idle.setCancel.pausesPoller)
    ∧ (polling.setCancel.seq.state = .idle ∧ polling.setCancel.seq.cancel = true ∧ polling.setCancel.pausesPoller)
    ∧ (ramping.setCancel.seq.state = .rampingUp ∧ ramping.setCancel.seq.cancel = true)
    ∧ holding.setCancel.seq.state = .holding ∧ descending.setCancel.seq.state = .rampingDown := by
  unfold State.pausesPoller
  decide

theorem witness_RampUpSendsUnitStepsThenTheTarget :
    ramping.crc.tblReady = true ∧ ramping.seq.state = .rampingUp ∧ ramping.seq.cancel = false ∧ ramping.seq.rampK = 1
    ∧ ramping.targetMag ≤ 100 ∧ (List.replicate 6 okDraw).length = ramping.targetMag + 1
    ∧ (∀ d ∈ List.replicate 6 okDraw, d.write = .ok)
    ∧ (ramping.seq.wait = 0 ∧ ramping.draw.write = .ok
      ∧ ({ ramping with seq := { ramping.seq with rampK := 5 } } : State).seq.rampK.toNat ≤ ramping.targetMag
      ∧ ramping.targetMag < ({ ramping with seq := { ramping.seq with rampK := 6 } } : State).seq.rampK.toNat)
    ∧ ({ ramping with seq := { ramping.seq with wait := 1 } } : State).seq.wait ≠ 0 := by decide

theorem witness_RampDownSendsUnitStepsThenStops :
    holding.crc.tblReady = true ∧ holding.seq.state = .holding ∧ holding.seq.cancel = false
    ∧ holding.params.stopMode = .rampDown ∧ 2 ≤ holding.targetMag ∧ holding.targetMag ≤ 100
    ∧ ((List.replicate 3 okDraw).length = holding.targetMag ∧ ∀ d ∈ List.replicate 3 okDraw, d.write = .ok)
    ∧ holding.seq.wait = 0
    ∧ (descending.seq.state = .rampingDown ∧ descending.seq.cancel = false ∧ descending.crc.tblReady = true
      ∧ descending.seq.wait = 0 ∧ descending.draw.write = .ok)
    ∧ 1 < ({ descending with seq := { descending.seq with rampK := 2 } } : State).seq.rampK.toNat
    ∧ ({ descending with seq := { descending.seq with rampK := 1 } } : State).seq.rampK.toNat ≤ 1
    ∧ ({ descending with seq := { descending.seq with wait := 1 } } : State).seq.wait ≠ 0 := by decide

theorem witness_HoldEndsInTheStopProcedure :
    (holding.seq.state = .holding ∧ holding.seq.cancel = false ∧ holding.seq.wait = 0
      ∧ ({ holding with params := { params with stopMode := .immediate } } : State).params.stopMode = .immediate)
    ∧ ({ holding with seq := { holding.seq with target := 1 } } : State).targetMag < 2
    ∧ ({ holding with seq := { holding.seq with wait := 1 } } : State).seq.wait ≠ 0 := by decide

theorem witness_RampWriteErrorAbortsTheSession :
    (let s : State := { ramping with draw := errDraw };
      s.crc.tblReady = true ∧ s.seq.cancel = false ∧ s.seq.wait = 0 ∧ s.draw.write = .err 1
      ∧ s.seq.state = .rampingUp ∧ s.rampUpDuty = -1)
    ∧ (let s : State := { descending with draw := errDraw };
      s.crc.tblReady = true ∧ s.seq.cancel = false ∧ s.seq.wait = 0 ∧ s.draw.write = .err 1
      ∧ s.seq.state = .rampingDown ∧ s.rampDownDuty = 1) := by decide

theorem witness_StopProcedureOutput :
    stopping.params.Valid ∧ stopping.crc.tblReady = true ∧ stopping.seq.state = .stopping
    ∧ stopping.seq.stopPhase = .burst ∧ stopping.seq.stopCnt = 0
    ∧ (List.replicate 7 errDraw).length = stopping.stopOps.length := by decide

theorem witness_CompletionFlushesAndReleases :
    (let s : State := { stopping with seq := { stopping.seq with stopPhase := .flush } };
      s.seq.state = .stopping ∧ s.seq.stopPhase = .flush ∧ s.seq.wait = 0 ∧ s.params.stopReconfirm = true
      ∧ s.crc.tblReady = true)
    ∧ (let s : State := { stopping with
          params := { params with stopReconfirm := false, cooldown := 0 }
          seq := { stopping.seq with stopPhase := .flush, sessionKind := .gated, sessionGated := true } };
      s.seq.stopPhase = .flush ∧ s.params.stopReconfirm = false ∧ s.seq.sessionGated = true ∧ s.params.cooldown = 0)
    ∧ (let s : State := { stopping with
          seq := { stopping.seq with
            stopPhase := .reconfirm, sessionKind := .gated, sessionGated := true, autoPaused := true }
          poll := { stopping.poll with state := .paused } };
      s.seq.state = .stopping ∧ s.seq.wait = 0 ∧ s.crc.tblReady = true ∧ s.seq.stopPhase = .reconfirm
      ∧ s.seq.sessionGated = true ∧ s.params.cooldown ≠ 0 ∧ s.seq.autoPaused = true ∧ s.poll.state = .paused)
    ∧ stopping.seq.sessionGated = false ∧ stopping.seq.autoPaused = false := by decide

theorem witness_StopStepsSendReportAndWaitTheirGap :
    (stopping.seq.state = .stopping ∧ stopping.seq.wait = 0 ∧ stopping.crc.tblReady = true
      ∧ stopping.seq.stopPhase = .burst ∧ stopping.draw.write = .ok)
    ∧ ({ stopping with draw := errDraw } : State).draw.write = .err 1
    ∧ ({ stopping with seq := { stopping.seq with stopPhase := .current } } : State).seq.stopPhase = .current
    ∧ ({ stopping with seq := { stopping.seq with stopPhase := .sustain } } : State).seq.stopPhase = .sustain
    ∧ ({ stopping with seq := { stopping.seq with wait := 1 } } : State).seq.wait ≠ 0
    ∧ (stopping.seq.stopPhase ≠ .flush
      ∧ ({ stopping with crc := { stopping.crc with tblReady := false } } : State).crc.tblReady = false) := by decide

theorem witness_CooldownReleaseWaitsForTheWindow :
    (let s : State := { idle with gate := { state := .cooldown, wait := 0 } };
      s.gate.state = .cooldown ∧ s.gate.wait = 0)
    ∧ ({ idle with gate := { state := .cooldown, wait := 1 } } : State).gate.wait ≠ 0
    ∧ idle.gate.state ≠ .cooldown := by decide

/-- A block in the middle of a gated session meets the invariant. -/
theorem ramping_inv : ramping.Inv := by
  refine ⟨by decide, idle_crcInv, by decide, ?_, ?_, ?_, ?_, ?_, ?_, ?_⟩
  · unfold State.BuffersInv; decide
  · unfold State.DutyInv; decide
  · unfold State.SessionInv; decide
  · unfold State.RampInv; decide
  · unfold State.StopInv; decide
  · unfold State.PollInv; decide
  · intro p h; cases h

/-- A session that holds beside an auto-paused poller, with `POLL` to move. -/
def paused : State :=
  { holding with
    seq := { holding.seq with autoPaused := true }
    poll := { holding.poll with state := .paused }
    schedule := [{ move := .poll, draw := okDraw }] }

theorem paused_inv : paused.Inv := by
  refine ⟨by decide, idle_crcInv, by decide, ?_, ?_, ?_, ?_, ?_, ?_, ?_⟩
  · unfold State.BuffersInv; decide
  · unfold State.DutyInv; decide
  · unfold State.SessionInv; decide
  · unfold State.RampInv; decide
  · unfold State.StopInv; decide
  · unfold State.PollInv; decide
  · intro p h; cases h

/-- Turns that go round the agents of the block, `HOST` pushing a byte in each round. -/
def roundRobin (n : Nat) : Turn where
  move := match n % 7 with
    | 0 => .cmd
    | 1 => .gen
    | 2 => .poll
    | 3 => .seq
    | 4 => .gateRelease
    | 5 => .clk
    | _ => .hostPush 0x00
  draw := okDraw

/-- The run of those turns from `s`. -/
def roundRobinRun (s : State) : Nat → State
  | 0 => s
  | n + 1 => (seen id (step ((roundRobinRun s n).withTurn (roundRobin n)))).getD s

theorem roundRobin_move (q i : Nat) : (roundRobin (7 * q + i)).move = (roundRobin i).move := by
  simp only [roundRobin, Nat.mul_add_mod]

theorem roundRobin_isRun (s : State) : IsRun roundRobin (roundRobinRun s) := by
  intro n
  obtain ⟨t, ht⟩ : ∃ t, step ((roundRobinRun s n).withTurn (roundRobin n)) = .next t := by
    rw [step_scheduled (s := (roundRobinRun s n).withTurn (roundRobin n)) rfl]
    simp only [roundRobin]
    split
    · exact cmdMove_next _
    all_goals exact ⟨_, rfl⟩
  simp only [roundRobinRun, ht, seen, Option.getD_some, id]

theorem roundRobin_fair (s : State) : WeaklyFair roundRobin (roundRobinRun s) := by
  intro a n he
  cases a
  · exact ⟨7 * n + 0, by omega, by rw [roundRobin_move]; exact ⟨rfl, he _ (by omega)⟩⟩
  · exact ⟨7 * n + 1, by omega, by rw [roundRobin_move]; exact ⟨rfl, he _ (by omega)⟩⟩
  · exact ⟨7 * n + 2, by omega, by rw [roundRobin_move]; exact ⟨rfl, he _ (by omega)⟩⟩
  · by_cases hq : (roundRobinRun s (7 * n + 3)).seqMove.isSome = true
    · exact ⟨7 * n + 3, by omega, by rw [roundRobin_move]; exact .inl ⟨rfl, hq⟩⟩
    · refine ⟨7 * n + 4, by omega, ?_⟩
      rw [roundRobin_move]
      have h := (roundRobin_isRun s).move (7 * n + 3)
      rw [roundRobin_move] at h
      have hq' : ((roundRobinRun s (7 * n + 3)).inTurn (roundRobin (7 * n + 3))).seqMove.isSome = false := by
        rw [seqMove_isSome_inTurn]
        simpa using hq
      have hn : roundRobinRun s (7 * n + 4) = (roundRobinRun s (7 * n + 3)).inTurn (roundRobin (7 * n + 3)) := by
        simp only [Option.isSome_eq_false_iff, Option.isNone_iff_eq_none] at hq'
        have h : orHold _ (State.seqMove _) = _ := h
        rw [hq'] at h
        exact (Host.Outcome.next.inj h).symm
      refine .inr ⟨rfl, (he (7 * n + 4) (by omega)).resolve_left ?_⟩
      rw [hn, hq']
      simp
  · exact ⟨7 * n + 5, by omega, by rw [roundRobin_move]; rfl⟩

theorem roundRobin_inputs (n : Nat) : (roundRobin n).move ≠ .hostReset ∧ (roundRobin n).move ≠ .hostEstop := by
  simp only [roundRobin]
  split <;> simp

theorem roundRobin_supplies (s : State) : HostSupplies roundRobin (roundRobinRun s) :=
  fun n _ => ⟨7 * n + 6, 0x00, by omega, by rw [roundRobin_move]; rfl⟩

/-- A session holds the lock, HARD_STOP waits for it, and CRC_BLOCK 1 behind it will take a byte. -/
def queued : State := { holding with cmdPort := [0x33000000, 0x05000001] }

theorem queued_inv : queued.Inv := by
  refine ⟨by decide, idle_crcInv, by decide, ?_, ?_, ?_, ?_, ?_, ?_, ?_⟩
  · unfold State.BuffersInv; decide
  · unfold State.DutyInv; decide
  · unfold State.SessionInv; decide
  · unfold State.RampInv; decide
  · unfold State.StopInv; decide
  · unfold State.PollInv; decide
  · intro p h; cases h

theorem polling_inv : polling.Inv := by
  refine ⟨by decide, idle_crcInv, by decide, ?_, ?_, ?_, ?_, ?_, ?_, ?_⟩
  · unfold State.BuffersInv; decide
  · unfold State.DutyInv; decide
  · unfold State.SessionInv; decide
  · unfold State.RampInv; decide
  · unfold State.StopInv; decide
  · unfold State.PollInv; decide
  · intro p h; cases h

/-- With no command presented, no session and no window, the poller runs on. -/
theorem polling_runsOn (n : Nat) : (roundRobinRun polling n).poll.state = .running := by
  suffices h : ((roundRobinRun polling n).poll.state = .running ∧ (roundRobinRun polling n).poll.tempActive = false)
      ∧ (roundRobinRun polling n).cmdPort = [] ∧ (roundRobinRun polling n).lockFree = true from h.1.1
  induction n with
  | zero => decide
  | succ n ih =>
    obtain ⟨⟨h1, h2⟩, h3, h4⟩ := ih
    have h := (roundRobin_isRun polling).move n
    generalize roundRobinRun polling n = s at h1 h2 h3 h4 h
    generalize roundRobinRun polling (n + 1) = t at h ⊢
    have hm : (roundRobin n).move ≠ .hostReset ∧ (roundRobin n).move ≠ .hostEstop
        ∧ ∀ w, (roundRobin n).move ≠ .hostPresent w := by
      simp only [roundRobin]
      split <;> simp
    rcases runMove_cases h hm.1 with ⟨_, e⟩ | ⟨_, _, rfl⟩ | ⟨_, e⟩ | ⟨_, e⟩ | ⟨_, _, rfl⟩ | ⟨_, rfl⟩ | ⟨e, _⟩ | ⟨w, e, _⟩
      | ⟨b, _, _, rfl⟩ | ⟨c, rfl⟩
    · have hp : (s.inTurn (roundRobin n)).cmdPort = [] := h3
      simp only [State.cmdMove, hp] at e
      cases e
      exact ⟨⟨h1, h2⟩, h3, h4⟩
    · exact ⟨⟨h1, h2⟩, h3, h4⟩
    · have f := pollFrame_pollMove e
      refine ⟨?_, f.cmdPort.trans h3, ?_⟩
      · rcases pollMove_cases e with ⟨h, _⟩ | ⟨_, _, _, _, ⟨_, rfl⟩ | ⟨_, rfl⟩⟩
        · exact absurd (h2 ▸ h : false = true) (by decide)
        · rw [pollSend_eq]
          cases State.writeOutcome _ <;> exact ⟨h1, h2⟩
        · obtain ⟨d, g⟩ := idles_pollRead (s.inTurn (roundRobin n))
          rw [g.poll]
          exact ⟨h1, h2⟩
      · unfold State.lockFree
        rw [f.seq]
        exact h4
    · have hb := (seqFrame_seqMove e).busy
      have hl := (lockFree_iff s).1 h4
      exact absurd hb (by simp [State.inTurn, hl])
    · exact ⟨⟨h1, h2⟩, h3, h4⟩
    · exact ⟨⟨h1, h2⟩, h3, h4⟩
    · exact absurd e hm.2.1
    · exact absurd e (hm.2.2 w)
    · exact ⟨⟨h1, h2⟩, h3, h4⟩
    · exact ⟨⟨h1, h2⟩, h3, h4⟩

theorem witness_SessionsEndAndEveryHoldIsLifted :
    (ramping.Inv ∧ ramping.crc.tblReady = true ∧ ramping.seq.state ≠ .idle
      ∧ (List.replicate 18 errDraw).length = ramping.sessionBound)
    ∧ (IsRun roundRobin (roundRobinRun queued) ∧ WeaklyFair roundRobin (roundRobinRun queued)
      ∧ (roundRobinRun queued 0).Inv ∧ (∀ n, (roundRobin n).move ≠ .hostReset)
      ∧ HostSupplies roundRobin (roundRobinRun queued) ∧ (∀ n, 0 ≤ n → (roundRobin n).move ≠ .hostEstop)
      ∧ (roundRobinRun queued 0).cmdPort ≠ [] ∧ (roundRobinRun queued 0).WillTakeBytes)
    ∧ (IsRun roundRobin (roundRobinRun polling) ∧ WeaklyFair roundRobin (roundRobinRun polling)
      ∧ (roundRobinRun polling 0).Inv ∧ ∀ k, 0 ≤ k → (roundRobinRun polling k).poll.state = .running)
    ∧ (holding.crc.tblReady = paused.crc.tblReady ∧ holding.gate = paused.gate ∧ holding.seq = queued.seq
      ∧ holding.poll = queued.poll) :=
  ⟨⟨ramping_inv, by decide⟩,
    ⟨roundRobin_isRun _, roundRobin_fair _, queued_inv, fun n => (roundRobin_inputs n).1, roundRobin_supplies _,
      fun n _ => (roundRobin_inputs n).2, by decide, 0x05000001, by decide, .crcBlock 1, 1, by decide, rfl, by decide, by decide⟩,
    ⟨roundRobin_isRun _, roundRobin_fair _, polling_inv, fun k _ => polling_runsOn k⟩, by decide⟩

theorem witness_SessionFramesStayWithinMaxDuty :
    ramping.Inv ∧ ramping.seq.sessionKind = .gated ∧ ramping.seqMove = some ramping.rampUpStep
    ∧ ramping.rampUpStep.wire = ramping.wire ++ [.write (ramping.dutyFrame (-1)) .ok] :=
  ⟨ramping_inv, by decide, rfl, by decide⟩

theorem witness_CommandsInASessionChangeOnlyCancelAndAutoPaused :
    holding.seq.state ≠ .idle ∧ exec .estop holding = .next holding.setCancel.retire
    ∧ exec (.setDuty 50) holding = .next holding := ⟨by decide, rfl, rfl⟩

theorem witness_PollStartAndPollStartTemp : idle.poll.state = .stopped ∧ polling.poll.state ≠ .stopped := by decide

theorem witness_PollPauseResumeStopAndExpiry :
    polling.poll.state ≠ .stopped ∧ idle.poll.state = .stopped ∧ polling.poll.state ≠ .paused
    ∧ polling.pollPauseNow.poll.state = .paused
    ∧ (polling.openWindow 0).poll.tempActive = true ∧ (polling.openWindow 0).poll.tempLeft = 0
    ∧ (polling.openWindow 0).poll.state ≠ .stopped := by decide

theorem witness_PollTickSendsAndFailuresBackOff :
    (polling.crc.tblReady = true ∧ polling.poll.state = .running ∧ polling.poll.phase = .tick ∧ polling.poll.wait = 0
      ∧ polling.poll.tempActive = false ∧ polling.draw.write = .ok
      ∧ ({ polling with draw := errDraw } : State).draw.write = .err 1)
    ∧ (polling.openWindow 1).poll.tempLeft ≠ 0
    ∧ (listening.crc.tblReady = true ∧ listening.poll.state = .running ∧ listening.poll.phase = .resp
      ∧ listening.poll.wait = 0 ∧ listening.draw.read = .bytes 0 ∧ listening.chan.rx = []
      ∧ ({ listening with draw := errDraw } : State).draw.read = .err)
    ∧ (polling.poll.tempActive = false ∧ polling.pollPauseNow.poll.state ≠ .running
      ∧ (polling.setPollPhase .tick 1).poll.wait ≠ 0 ∧ idle.poll.state = .stopped)
    ∧ polling.crc.tbl = romTable := ⟨by decide, by decide, by decide, by decide, rfl⟩

theorem witness_PollReadDecodesEveryPayload :
    (let s : State := { listening with
        chan := { rx := [0x02, 0x01, 0x04, 0x40, 0x84, 0x03], tx := [], line := [] }
        draw := { write := .ok, read := .bytes 6, flushKeep := 0 } };
      s.crc.tblReady = true ∧ s.poll.state = .running ∧ s.poll.phase = .resp ∧ s.poll.wait = 0
      ∧ s.poll.tempActive = false ∧ s.draw.read = .bytes 6
      ∧ [0x02, 0x01, 0x04, 0x40, 0x84, 0x03] = s.chan.rx.take (min 6 s.params.readMax)
      ∧ s.acc.length + 6 ≤ s.params.rxCap) := by decide

theorem witness_PollerChangesNoSeqRegisterButAutoPaused :
    (polling.openWindow 0).pollMove = some (polling.openWindow 0).pollStop ∧ polling.pollMove = some polling.pollSend :=
  ⟨rfl, rfl⟩

theorem witness_NoRequestWhileAutoPaused :
    paused.Inv ∧ paused.seq.autoPaused = true ∧ step paused = .next { paused with schedule := [] } :=
  ⟨paused_inv, by decide, rfl⟩

theorem witness_StatReadEmitsTheIndexedValue : (17, BitVec.ofNat 32 idle.cmdIdx) ∈ [((17 : Nat), (0 : Word))] ∧ 18 ≤ 18 := by
  decide

theorem witness_StickyBitsStayUntilCleared :
    (presenting { idle with sticky := 0x004 } 0x00000000).nextTurn.move ≠ .hostReset
    ∧ step (presenting { idle with sticky := 0x004 } 0x00000000)
      = .next (State.retire { (presenting { idle with sticky := 0x004 } 0x00000000) with schedule := [] })
    ∧ decode 0x00000000 ≠ .instr .statusClear := ⟨by decide, rfl, by decide⟩

theorem witness_OnlyTheClockAdvancesTime :
    (presenting idle 0x00000000).nextTurn.move ≠ .clk ∧ (presenting idle 0x00000000).nextTurn.move ≠ .hostReset
    ∧ seen (·.now) (step (presenting idle 0x00000000)) = some 0 := by decide

theorem witness_StreamsOnlyGrowAndOkWritesAreCounted :
    (presenting idle 0x30000000).nextTurn.move ≠ .hostReset
    ∧ seen (·.wire) (step (presenting idle 0x30000000))
      = some ((presenting idle 0x30000000).wire ++ [.write (idle.dutyFrame 0) .ok])
    ∧ seen (·.wire) (step (presenting idle 0x00000000)) = some [] := by decide

theorem witness_ArbiterGrantsSeqThenCmdThenPoll :
    ramping.seqUsesChannel = true
    ∧ ((presenting polling 0x3000000A).seqUsesChannel = false ∧ (presenting polling 0x3000000A).cmdUsesChannel = true)
    ∧ (polling.seqUsesChannel = false ∧ polling.cmdUsesChannel = false ∧ polling.pollUsesChannel = true) := by decide

theorem witness_ResetGivesTheListedValues :
    ({ holding with schedule := [{ move := .hostReset, draw := okDraw }] } : State).schedule
      = { move := .hostReset, draw := okDraw } :: []
    ∧ seen (·.seq.state) (step { holding with schedule := [{ move := .hostReset, draw := okDraw }] }) = some .idle
    ∧ params.tableImpl = .rom := by decide

theorem witness_InvariantHoldsAtReset : params.Valid ∧ Config.Params.default.Valid := by decide

theorem witness_EveryStepKeepsTheInvariant :
    paused.Inv ∧ step paused = .next { paused with schedule := [] } := ⟨paused_inv, rfl⟩

end Sys2Proof.Tests
end

section
/-! PROOF. Every step keeps the invariant (`State.Inv`). First what the invariant does not look at; then one rule per state
operation; then the rules of the holds; then each agent's step; and at the end the step of the machine. -/

namespace Sys2Proof.Machine

/-! ### The parts of the invariant that guards and bounds cite -/

theorem State.Inv.valid {s : State} (h : s.Inv) : s.params.Valid := h.1

theorem State.Inv.session {s : State} (h : s.Inv) : s.SessionInv := by
  obtain ⟨-, -, -, -, -, hs, -⟩ := h
  exact hs

theorem State.Inv.ramp {s : State} (h : s.Inv) : s.RampInv := by
  obtain ⟨-, -, -, -, -, -, hr, -⟩ := h
  exact hr

theorem State.Inv.acc_length_le {s : State} (h : s.Inv) : s.acc.length ≤ s.params.rxCap := by
  obtain ⟨-, -, -, ⟨hacc, -⟩, -⟩ := h
  exact hacc

/-- The bounds of R9 that the invariant's arithmetic uses. -/
theorem valid_bounds {p : Config.Params} (h : p.Valid) :
    p.maxDuty ≤ 100 ∧ 2 ≤ p.stopBurstN ∧ 2 ≤ p.stopSustainN := by
  simp [Config.Params.Valid, Config.Params.valid] at h
  omega

/-- No target is above 100 percent (R9, R63). -/
theorem State.Inv.targetMag_le {s : State} (h : s.Inv) : s.targetMag ≤ 100 := by
  obtain ⟨hv, -, -, -, ⟨-, htarget⟩, -⟩ := h
  exact htarget.trans (valid_bounds hv).1

/-! ### What the invariant does not look at -/

/-- The invariant reads no stream, counter, sticky bit, clock, draw or turn, and of `ACC` only that it fits. -/
theorem inv_of_idles {s t : State} (e : Idles s t) (ha : t.acc.length ≤ t.params.rxCap) (h : s.Inv) : t.Inv := by
  obtain ⟨hv, hc, hrom, ⟨-, hdin⟩, hd, hs, hr, hst, hp, hport⟩ := h
  unfold State.DutyInv at hd
  unfold State.SessionInv at hs
  unfold State.RampInv State.targetMag at hr
  unfold State.StopInv at hst
  unfold State.PollInv at hp
  unfold State.PortInv at hport
  simp only [← e.params, ← e.crc, ← e.din, ← e.seq, ← e.gate, ← e.poll, ← e.cmdPort, ← e.cmdData] at *
  exact ⟨hv, hc, hrom, ⟨ha, hdin⟩, hd, hs, hr, hst, hp, hport⟩

@[simp] theorem inv_chanFlush (s : State) : s.chanFlush.Inv ↔ s.Inv := Iff.rfl

@[simp] theorem inv_sendFrame (f : List Byte) (s : State) : (s.sendFrame f).Inv ↔ s.Inv := by
  rw [sendFrame_eq]
  rfl

@[simp] theorem inv_sendCurrentZero (s : State) : s.sendCurrentZero.Inv ↔ s.Inv := by
  rw [sendCurrentZero_eq]
  rfl

@[simp] theorem inv_reportWrite (o : IoOutcome) (a : Agent) (s : State) : (s.reportWrite o a).Inv ↔ s.Inv := by
  rw [reportWrite_eq]
  rfl

@[simp] theorem inv_chanRead (s : State) : s.chanRead.Inv ↔ s.Inv := by
  rw [chanRead_eq]
  rfl

@[simp] theorem inv_pollPayloads (ps : List (List Byte)) (s : State) : (s.pollPayloads ps).Inv ↔ s.Inv := by
  rw [pollPayloads_eq]
  rfl

@[simp] theorem inv_begin (s : State) : s.begin.Inv ↔ s.Inv := by
  unfold State.begin
  split <;> rfl

/-! ### The buffers and the command port -/

/-- A retired command leaves no payload behind (R146). -/
theorem inv_retire {s : State} (h : s.Inv) : s.retire.Inv := by
  obtain ⟨hv, hc, hrom, hb, hd, hs, hr, hst, hp, -⟩ := h
  exact ⟨hv, hc, hrom, hb, hd, hs, hr, hst, hp, nofun⟩

theorem inv_dinDrop {s : State} (n : Nat) (h : s.Inv) : (s.dinDrop n).Inv := by
  obtain ⟨hv, hc, hrom, ⟨hacc, hdin⟩, hd, hs, hr, hst, hp, hport⟩ := h
  have hdrop : (s.din.drop n).length ≤ s.params.dinDepth := by
    rw [List.length_drop]
    omega
  exact ⟨hv, hc, hrom, ⟨hacc, hdrop⟩, hd, hs, hr, hst, hp, hport⟩

/-- A TX_FRAME at the head of the port takes its payload (R260). -/
theorem inv_takePayload {s : State} {w : Word} {ws : List Word} {p : List Byte} (hw : s.cmdPort = w :: ws)
    (hdec : decode w = .instr (.txFrame p.length)) (h : s.Inv) : ({ s with cmdData := some p } : State).Inv := by
  obtain ⟨hv, hc, hrom, hb, hd, hs, hr, hst, hp, -⟩ := h
  refine ⟨hv, hc, hrom, hb, hd, hs, hr, hst, hp, ?_⟩
  rintro q ⟨rfl⟩
  exact ⟨w, ws, hw, hdec⟩

theorem inv_present {s : State} (w : Word) (h : s.Inv) : (s.present w).Inv := by
  obtain ⟨hv, hc, hrom, hb, hd, hs, hr, hst, hp, hport⟩ := h
  refine ⟨hv, hc, hrom, hb, hd, hs, hr, hst, hp, ?_⟩
  intro q hq
  obtain ⟨w', ws, hw, hdec⟩ := hport q hq
  exact ⟨w', ws ++ [w], congrArg (· ++ [w]) hw, hdec⟩

/-- A push waits for room in `DIN` (R56). -/
theorem inv_pushDin {s t : State} {b : Byte} (hm : s.pushDin b = some t) (h : s.Inv) : t.Inv := by
  obtain ⟨hroom, rfl⟩ := pushDin_some hm
  obtain ⟨hv, hc, hrom, ⟨hacc, -⟩, hd, hs, hr, hst, hp, hport⟩ := h
  have hlen : (s.din ++ [b]).length ≤ s.params.dinDepth := by
    rw [List.length_append]
    exact hroom
  exact ⟨hv, hc, hrom, ⟨hacc, hlen⟩, hd, hs, hr, hst, hp, hport⟩

theorem inv_clearAcc {s : State} (h : s.Inv) : ({ s with acc := [] } : State).Inv := by
  obtain ⟨hv, hc, hrom, ⟨-, hdin⟩, hd, hs, hr, hst, hp, hport⟩ := h
  exact ⟨hv, hc, hrom, ⟨Nat.zero_le _, hdin⟩, hd, hs, hr, hst, hp, hport⟩

/-- A push keeps `ACC` within its capacity: the bytes that do not fit are dropped (R261). -/
theorem accPush_length {b : List Byte} {s : State} (h : s.acc.length ≤ s.params.rxCap) :
    (s.accPush b).acc.length ≤ s.params.rxCap := by
  by_cases hf : s.acc.length + b.length ≤ s.params.rxCap
  · rw [accPush_fits hf]
    simpa using hf
  · rw [accPush_overflows (by omega)]
    simp
    omega

theorem inv_accPush (b : List Byte) {s : State} (h : s.Inv) : (s.accPush b).Inv := by
  have e := idles_accPush b s
  exact inv_of_idles e (e.params ▸ accPush_length h.acc_length_le) h

/-- A scan never makes `ACC` longer (R250, R261). -/
theorem accScan_length (s : State) : s.accScan.acc.length ≤ s.acc.length := by
  rw [accScan_eq, accTrim_eq]
  split
  · exact Nat.zero_le _
  · exact extractLoop_rem_length ..

theorem inv_accScan {s : State} (h : s.Inv) : s.accScan.Inv := by
  have e := idles_accScan s
  exact inv_of_idles e (e.params ▸ (accScan_length s).trans h.acc_length_le) h

/-! ### The CRC unit -/

theorem tableIters_succ (n : Nat) (crc c : Half) :
    tableIters (n + 1) crc c
      = (tableIterCrc (tableIters n crc c).1 (tableIters n crc c).2, (tableIters n crc c).2 <<< 1) :=
  tableIters_add n 1 crc c

/-- A table whose first `i` entries are final has one more final entry once entry `i` is written (R201). -/
theorem take_set_tableEntry {tbl : List Half} {i : Nat} (hlen : tbl.length = 256) (hi : i < 256)
    (h : tbl.take i = romTable.take i) :
    (tbl.set i (tableEntry i)).take (i + 1) = romTable.take (i + 1) := by
  have hrom : romTable[i]? = some (tableEntry i) := by simp [romTable, hi]
  rw [List.take_add_one, List.take_add_one, List.take_set_of_le (Nat.le_refl i), h, hrom,
    List.getElem?_set_self (hlen ▸ hi)]

/-- A generator step (R201) keeps the invariant of the CRC unit. -/
theorem crcInv_genStep {c : CrcUnit} (hn : c.tblReady = false) (h : c.Inv) : c.genStep.Inv := by
  obtain ⟨hlen, -, hgen⟩ := h
  obtain ⟨hi, hj, htake, hreg⟩ := hgen hn
  obtain ⟨hcrc, hc⟩ := Prod.ext_iff.1 hreg
  dsimp only at hcrc hc
  have hnext := tableIters_succ c.genJ.toNat 0 (entryStart c.genI.toNat)
  rw [← hcrc, ← hc] at hnext
  by_cases h7 : c.genJ = 7
  · have hentry : tableIterCrc c.genCrc c.genC = tableEntry c.genI.toNat := by
      rw [h7] at hnext
      exact (congrArg Prod.fst hnext).symm
    have hset := take_set_tableEntry hlen hi htake
    have hlen' : (c.tbl.set c.genI.toNat (tableEntry c.genI.toNat)).length = 256 := by rw [List.length_set, hlen]
    by_cases hlast : c.genI = 255
    · rw [genStep_last h7 hlast, hentry]
      refine ⟨hlen', fun _ => ?_, nofun⟩
      rw [show c.genI.toNat + 1 = 256 by rw [hlast]; rfl] at hset
      rwa [List.take_of_length_le (Nat.le_of_eq hlen'), List.take_of_length_le (Nat.le_of_eq romTable_length)] at hset
    · have hI : (c.genI + 1).toNat = c.genI.toNat + 1 := by
        rw [BitVec.toNat_add]
        simp
        omega
      have hlt : c.genI.toNat ≠ 255 := fun e => hlast (BitVec.eq_of_toNat_eq e)
      rw [genStep_entry h7 hlast, hentry]
      refine ⟨hlen', fun hr => absurd (hn.symm.trans hr) nofun, fun _ => ?_⟩
      dsimp only
      rw [hI]
      exact ⟨by omega, by decide, hset, rfl⟩
  · have hne : c.genJ.toNat ≠ 7 := fun e => h7 (BitVec.eq_of_toNat_eq e)
    have hJ : (c.genJ + 1).toNat = c.genJ.toNat + 1 := by
      rw [BitVec.toNat_add]
      simp
      omega
    rw [genStep_inside h7]
    refine ⟨hlen, fun hr => absurd (hn.symm.trans hr) nofun, fun _ => ?_⟩
    dsimp only
    rw [hJ]
    exact ⟨hi, by omega, htake, hnext.symm⟩

/-- A generator step of the block. While the table is not ready the poller waits for no response (R210). -/
theorem inv_genMove {s t : State} (hm : s.genMove = some t) (h : s.Inv) : t.Inv := by
  obtain ⟨hv, hc, hrom, hb, hd, hs, hr, hst, ⟨hresp, htemp⟩, hport⟩ := h
  obtain ⟨hn, rfl⟩ := genMove_some hm
  exact ⟨hv, crcInv_genStep hn hc, fun hi => absurd (hn.symm.trans (hrom hi)) nofun, hb, hd, hs, hr, hst,
    ⟨fun hp => absurd (hn.symm.trans (hresp hp).2) nofun, htemp⟩, hport⟩

/-! ### The sequencer's registers -/

theorem sendDuty_seq (d : Int) (s : State) :
    (s.sendDuty d).seq = { s.seq with duty := BitVec.ofInt 8 d, ctrlMode := .duty } := by rw [sendDuty_eq]

/-- A frame of a duty in range (R343, R394). -/
theorem inv_sendDuty {s : State} {d : Int} (hd : d.natAbs ≤ 100) (h : s.Inv) : (s.sendDuty d).Inv := by
  obtain ⟨hv, hc, hrom, hb, ⟨-, htarget⟩, hs, hr, hst, hp, hport⟩ := h
  have hduty : (BitVec.ofInt 8 d).toInt.natAbs ≤ 100 := by rwa [toInt_ofInt8 (by omega)]
  rw [sendDuty_eq]
  exact ⟨hv, hc, hrom, hb, ⟨hduty, htarget⟩, hs, hr, hst, hp, hport⟩

/-- The stop procedure entered from a session (R370). -/
theorem inv_enterStopping {s : State} (w : Word) (hi : s.seq.state ≠ .idle) (h : s.Inv) : (s.enterStopping w).Inv := by
  obtain ⟨hv, hc, hrom, hb, hd, ⟨hkind, hgated, hbusy, hpause, hwait⟩, -, -, hp, hport⟩ := h
  obtain ⟨-, hburst, -⟩ := valid_bounds hv
  refine ⟨hv, hc, hrom, hb, hd, ⟨?_, hgated, hbusy, ?_, hwait⟩, ⟨nofun, nofun, nofun⟩, fun _ => ⟨fun _ => ?_, nofun, nofun⟩,
    hp, hport⟩
  · exact iff_of_false nofun fun hk => hi (hkind.2 hk)
  · exact fun ha => ⟨nofun, (hpause ha).2⟩
  · exact Nat.lt_of_lt_of_le Nat.zero_lt_two hburst

theorem inv_abortSession {s : State} (hi : s.seq.state ≠ .idle) (h : s.Inv) : s.abortSession.Inv :=
  inv_enterStopping 0 hi (s := (s.raise (.ioErrWrite .seq)).raise (.sessionAbort s.seq.state)) h

theorem inv_setCancel {s : State} (h : s.Inv) : s.setCancel.Inv := h

/-! ### The start of a session -/

/-- What `start_session(k)` finds (R352): no session, no owed pause, and the gate busy and marked exactly for a gated `k`. -/
structure State.MayStart (s : State) (k : SessionKind) : Prop where
  kind : k ≠ .none
  gated : s.seq.sessionGated = true ↔ k = .gated
  busy : s.seq.sessionGated = true ↔ s.gate.state = .busy
  noPause : s.seq.autoPaused = false
  gateWait : s.gate.state ≠ .cooldown → s.gate.wait = 0

/-- In `IDLE` there is no session, and no pause is owed (R69, R341). -/
theorem State.SessionInv.idle {s : State} (h : s.SessionInv) (hi : s.seq.state = .idle) :
    s.seq.sessionGated = false ∧ s.seq.autoPaused = false := by
  obtain ⟨hkind, hgated, -, hpause, -⟩ := h
  constructor
  · refine Bool.eq_false_iff.2 fun hg => ?_
    have hk := hgated.1 hg
    rw [hkind.1 hi] at hk
    cases hk
  · exact Bool.eq_false_iff.2 fun ha => (hpause ha).1 hi

/-- A session without a gate may start in `IDLE`. -/
theorem mayStart_ungated {s : State} {k : SessionKind} (hk : k ≠ .none) (hk' : k ≠ .gated) (hi : s.seq.state = .idle)
    (h : s.SessionInv) : s.MayStart k := by
  obtain ⟨hg, ha⟩ := h.idle hi
  obtain ⟨-, -, hbusy, -, hwait⟩ := h
  exact ⟨hk, iff_of_false (by simp [hg]) hk', hbusy, ha, hwait⟩

/-- A gated session may start in `IDLE` once its TRIGGER has taken an idle gate (R390). -/
theorem mayStart_gated {s : State} (hi : s.seq.state = .idle) (hgate : s.gate.state = .idle) (h : s.SessionInv) :
    s.takeGate.MayStart .gated := by
  obtain ⟨-, ha⟩ := h.idle hi
  obtain ⟨-, -, -, -, hwait⟩ := h
  exact ⟨nofun, iff_of_true rfl rfl, iff_of_true rfl rfl, ha, fun _ => hwait (by simp [hgate])⟩

/-- A session that has started and taken the lock agrees with its gate and its pause (R352). -/
theorem sessionInv_startSession {s : State} {k : SessionKind} {q : SeqState} (hq : q ≠ .idle) (h : s.MayStart k) :
    ({ s.startSession k with seq := { (s.startSession k).seq with state := q } } : State).SessionInv := by
  rw [startSession_eq]
  refine ⟨iff_of_false hq h.kind, h.gated, h.busy, fun ha => ⟨hq, ?_⟩, h.gateWait⟩
  dsimp only at ha ⊢
  split at ha
  · rename_i hp
    rw [if_pos hp]
  · exact absurd (h.noPause.symm.trans ha) nofun

/-- The pause at a session's start forgets the response awaited (R352). -/
theorem pollInv_startSession {s : State} (k : SessionKind) (h : s.PollInv) : (s.startSession k).PollInv := by
  obtain ⟨hresp, hactive, hleft, hstopped⟩ := h
  rw [startSession_eq]
  unfold State.PollInv
  dsimp only
  split
  · exact ⟨nofun, nofun, hleft, nofun⟩
  · exact ⟨hresp, hactive, hleft, hstopped⟩

/-- A stop session, cooperative or emergency, starts in `IDLE` (R380, R381). -/
theorem inv_stopSession {s : State} {k : SessionKind} (hk : k ≠ .none) (hk' : k ≠ .gated) (hi : s.seq.state = .idle)
    (h : s.Inv) : ((s.startSession k).enterStopping 0).Inv := by
  obtain ⟨hv, hc, hrom, hb, hd, hs, -, -, hp, hport⟩ := h
  obtain ⟨-, hburst, -⟩ := valid_bounds hv
  have hs' : ((s.startSession k).enterStopping 0).SessionInv :=
    sessionInv_startSession (q := .stopping) nofun (mayStart_ungated hk hk' hi hs)
  have hp' : ((s.startSession k).enterStopping 0).PollInv := pollInv_startSession k hp
  rw [startSession_eq] at hs' hp' ⊢
  exact ⟨hv, hc, hrom, hb, hd, hs', ⟨nofun, nofun, nofun⟩,
    fun _ => ⟨fun _ => Nat.lt_of_lt_of_le Nat.zero_lt_two hburst, nofun, nofun⟩, hp', hport⟩

theorem saturate_natAbs_le (m : Nat) (t : Int) : (saturate m t).natAbs ≤ m := by
  unfold saturate
  split
  · omega
  · split <;> omega

/-- The gate and the mark of a gated session set to `g` and `b`. -/
def State.withGate (g : Gate) (b : Bool) (s : State) : State :=
  { s with gate := g, seq := { s.seq with sessionGated := b } }

theorem withGate_self (s : State) : s.withGate s.gate s.seq.sessionGated = s := rfl

theorem takeGate_eq_withGate (s : State) : s.takeGate = s.withGate { s.gate with state := .busy } true := rfl

/-- A ramp starts, with the gate as it is or just taken (R350, R351, R390): its target is in range, its index is 1. -/
theorem inv_startRamp {s : State} {k : SessionKind} {g : Gate} {b : Bool} (x : Int) (n : Nat)
    (hk : k = .ramp ∨ k = .gated) (hm : (s.withGate g b).MayStart k) (h : s.Inv) :
    ((s.withGate g b).startRamp k x n).Inv := by
  obtain ⟨hv, hc, hrom, hb, ⟨hduty, -⟩, -, -, -, hp, hport⟩ := h
  obtain ⟨hmax, -, -⟩ := valid_bounds hv
  have hsat := saturate_natAbs_le s.params.maxDuty x
  have htarget : (BitVec.ofInt 8 (saturate s.params.maxDuty x)).toInt.natAbs ≤ s.params.maxDuty := by
    rwa [toInt_ofInt8 (by omega)]
  obtain ⟨hkind, hgated, hbusy, hpause, hwait⟩ := hm
  have hs' : ((s.withGate g b).startRamp k x n).SessionInv :=
    sessionInv_startSession nofun ⟨hkind, hgated, hbusy, hpause, hwait⟩
  have hp' : ((s.withGate g b).startRamp k x n).PollInv := pollInv_startSession k hp
  rw [startRamp_eq] at hs' hp' ⊢
  exact ⟨hv, hc, hrom, hb, ⟨hduty, htarget⟩, hs', ⟨fun _ => ⟨Nat.le_refl 1, Nat.le_add_left 1 _⟩, nofun, fun _ => hk⟩, nofun,
    hp', hport⟩

/-! ### The end of a session -/

/-- `complete_session()` frees the lock and the gate, and pays the owed pause back (R376). -/
theorem sessionInv_completeSession {s : State} (h : s.SessionInv) : s.completeSession.SessionInv := by
  obtain ⟨-, -, hbusy, -, hwait⟩ := h
  rw [completeSession_eq]
  refine ⟨iff_of_true rfl rfl, iff_of_false nofun nofun, iff_of_false nofun ?_, nofun, ?_⟩ <;> dsimp only
  · cases hg : s.seq.sessionGated
    · exact fun hb => absurd (hbusy.2 hb) (by simp [hg])
    · by_cases hcool : s.params.cooldown = 0 <;> simp [hcool]
  · cases hg : s.seq.sessionGated
    · exact hwait
    · have hb := hbusy.1 hg
      by_cases hcool : s.params.cooldown = 0 <;> simp [hcool, hwait, hb]

theorem inv_completeSession {s : State} (h : s.Inv) : s.completeSession.Inv := by
  obtain ⟨hv, hc, hrom, hb, hd, hs, -, -, ⟨hresp, hactive, hleft, hstopped⟩, hport⟩ := h
  have hs' := sessionInv_completeSession hs
  have hp' : s.completeSession.PollInv := by
    rw [completeSession_eq]
    unfold State.PollInv
    dsimp only
    split
    · exact ⟨nofun, nofun, hleft, nofun⟩
    · exact ⟨hresp, hactive, hleft, hstopped⟩
  rw [completeSession_eq] at hs' hp' ⊢
  exact ⟨hv, hc, hrom, hb, hd, hs', ⟨nofun, nofun, nofun⟩, nofun, hp', hport⟩

/-! ### The ramp -/

theorem sign_mul_natAbs_le (t : Int) (k : Nat) : (t.sign * k).natAbs ≤ k := by
  rw [Int.natAbs_mul, Int.natAbs_sign, Int.natAbs_natCast]
  split <;> omega

/-- Every duty of a ramp is at most the target in magnitude (R354, R394). -/
theorem rampUpDuty_natAbs_le (s : State) : s.rampUpDuty.natAbs ≤ s.targetMag := by
  unfold State.rampUpDuty
  split
  · exact (sign_mul_natAbs_le _ _).trans ‹_›
  · exact Nat.le_refl _

/-- What follows a ramp-up frame that was written (R353). -/
theorem inv_rampUpNext {s : State} (hst : s.seq.state = .rampingUp) (h : s.Inv) : s.rampUpNext.Inv := by
  have hmag := h.targetMag_le
  obtain ⟨hv, hc, hrom, hb, hd, hs, ⟨-, -, hkind⟩, -, hp, hport⟩ := h
  unfold State.rampUpNext
  split
  · rename_i hle
    have hK : (s.seq.rampK + 1).toNat = s.seq.rampK.toNat + 1 := by
      rw [BitVec.toNat_add]
      simp
      omega
    refine ⟨hv, hc, hrom, hb, hd, hs, ⟨fun _ => ?_, ?_, hkind⟩, ?_, hp, hport⟩
    · exact hK ▸ ⟨Nat.le_add_left 1 _, Nat.succ_le_succ hle⟩
    · exact fun hdown => absurd (hst.symm.trans hdown) nofun
    · exact fun hstop => absurd (hst.symm.trans hstop) nofun
  · obtain ⟨hidle, hgated, hbusy, hpause, hwait⟩ := hs
    refine ⟨hv, hc, hrom, hb, hd, ⟨?_, hgated, hbusy, ?_, hwait⟩, ⟨nofun, nofun, fun _ => hkind (.inl hst)⟩,
      nofun, hp, hport⟩
    · exact iff_of_false nofun fun hk => absurd (hst.symm.trans (hidle.2 hk)) nofun
    · exact fun ha => ⟨nofun, (hpause ha).2⟩

theorem inv_rampUpStep {s : State} (hst : s.seq.state = .rampingUp) (h : s.Inv) : s.rampUpStep.Inv := by
  have hsent := inv_sendDuty ((rampUpDuty_natAbs_le s).trans h.targetMag_le) h
  have hst' : (s.sendDuty s.rampUpDuty).seq.state = .rampingUp := by rw [sendDuty_seq, hst]
  unfold State.rampUpStep
  dsimp only
  split
  · exact inv_abortSession (by simp [hst']) hsent
  · exact inv_rampUpNext hst' hsent

/-- The end of the hold (R355): the ramp down starts one below the target. -/
theorem inv_endHold {s : State} (hst : s.seq.state = .holding) (h : s.Inv) : s.endHold.Inv := by
  unfold State.endHold
  split
  · rename_i hdown
    have hmag := h.targetMag_le
    obtain ⟨hv, hc, hrom, hb, hd, ⟨hidle, hgated, hbusy, hpause, hwait⟩, ⟨-, -, hkind⟩, -, hp, hport⟩ := h
    have hK : (BitVec.ofNat 7 (s.targetMag - 1)).toNat = s.targetMag - 1 := by
      rw [BitVec.toNat_ofNat]
      omega
    refine ⟨hv, hc, hrom, hb, hd, ⟨?_, hgated, hbusy, ?_, hwait⟩,
      ⟨nofun, fun _ => ?_, fun _ => hkind (.inr (.inl hst))⟩, nofun, hp, hport⟩
    · exact iff_of_false nofun fun hk => absurd (hst.symm.trans (hidle.2 hk)) nofun
    · exact fun ha => ⟨nofun, (hpause ha).2⟩
    · change 1 ≤ (BitVec.ofNat 7 (s.targetMag - 1)).toNat ∧ (BitVec.ofNat 7 (s.targetMag - 1)).toNat + 1 ≤ s.targetMag
      omega
  · exact inv_enterStopping 0 (by simp [hst]) h

/-- What follows a ramp-down frame that was written (R356). -/
theorem inv_rampDownNext {s : State} (hst : s.seq.state = .rampingDown) (h : s.Inv) : s.rampDownNext.Inv := by
  unfold State.rampDownNext
  split
  · rename_i hlt
    obtain ⟨hv, hc, hrom, hb, hd, hs, ⟨-, hdown, hkind⟩, -, hp, hport⟩ := h
    obtain ⟨-, hle⟩ := hdown hst
    have hK : (s.seq.rampK - 1).toNat = s.seq.rampK.toNat - 1 := by
      rw [BitVec.toNat_sub]
      simp
      omega
    refine ⟨hv, hc, hrom, hb, hd, hs, ⟨?_, fun _ => ?_, hkind⟩, ?_, hp, hport⟩
    · exact fun hup => absurd (hst.symm.trans hup) nofun
    · change 1 ≤ (s.seq.rampK - 1).toNat ∧ (s.seq.rampK - 1).toNat + 1 ≤ s.targetMag
      omega
    · exact fun hstop => absurd (hst.symm.trans hstop) nofun
  · exact inv_enterStopping _ (by simp [hst]) h

theorem inv_rampDownStep {s : State} (hst : s.seq.state = .rampingDown) (h : s.Inv) : s.rampDownStep.Inv := by
  have hmag := h.targetMag_le
  obtain ⟨-, hdown, -⟩ := h.ramp
  obtain ⟨-, hle⟩ := hdown hst
  have hduty : s.rampDownDuty.natAbs ≤ 100 := (sign_mul_natAbs_le _ _).trans (by omega)
  have hsent := inv_sendDuty hduty h
  have hst' : (s.sendDuty s.rampDownDuty).seq.state = .rampingDown := by rw [sendDuty_seq, hst]
  unfold State.rampDownStep
  dsimp only
  split
  · exact inv_abortSession (by simp [hst']) hsent
  · exact inv_rampDownNext hst' hsent

/-! ### The stop procedure -/

theorem zeroDuty_natAbs_le : (0 : BitVec 8).toInt.natAbs ≤ 100 := by decide

theorem inv_burstStep {s : State} (h : s.Inv) : s.burstStep.Inv := by
  obtain ⟨hv, hc, hrom, hb, ⟨-, htarget⟩, hs, hr, -, hp, hport⟩ := h
  rw [burstStep_eq]
  refine ⟨hv, hc, hrom, hb, ⟨zeroDuty_natAbs_le, htarget⟩, hs, hr, fun _ => ?_, hp, hport⟩
  dsimp only
  split
  · exact ⟨fun _ => ‹_›, nofun, nofun⟩
  · exact ⟨nofun, nofun, nofun⟩

theorem inv_currentStep {s : State} (h : s.Inv) : s.currentStep.Inv := by
  obtain ⟨hv, hc, hrom, hb, hd, hs, hr, -, hp, hport⟩ := h
  obtain ⟨-, -, hsustain⟩ := valid_bounds hv
  rw [currentStep_eq]
  exact ⟨hv, hc, hrom, hb, hd, hs, hr, fun _ => ⟨nofun, fun _ => Nat.lt_of_lt_of_le Nat.zero_lt_two hsustain, nofun⟩, hp,
    hport⟩

theorem inv_sustainStep {s : State} (hph : s.seq.stopPhase = .sustain) (h : s.Inv) : s.sustainStep.Inv := by
  obtain ⟨hv, hc, hrom, hb, ⟨-, htarget⟩, hs, hr, -, hp, hport⟩ := h
  rw [sustainStep_eq]
  refine ⟨hv, hc, hrom, hb, ⟨zeroDuty_natAbs_le, htarget⟩, hs, hr, fun _ => ?_, hp, hport⟩
  dsimp only
  split
  · rw [hph]
    exact ⟨nofun, fun _ => ‹_›, nofun⟩
  · exact ⟨nofun, nofun, nofun⟩

theorem inv_flushStep {s : State} (h : s.Inv) : s.flushStep.Inv := by
  unfold State.flushStep
  dsimp only
  split
  · rename_i hre
    obtain ⟨hv, hc, hrom, hb, hd, hs, hr, -, hp, hport⟩ := h
    exact ⟨hv, hc, hrom, hb, hd, hs, hr, fun _ => ⟨nofun, nofun, fun _ => hre⟩, hp, hport⟩
  · exact inv_completeSession ((inv_chanFlush s).2 h)

theorem inv_reconfirmStep {s : State} (h : s.Inv) : s.reconfirmStep.Inv :=
  inv_completeSession ((inv_reportWrite _ _ _).2 ((inv_sendCurrentZero s).2 h))

theorem inv_stopStep {s : State} (h : s.Inv) : s.stopStep.Inv := by
  unfold State.stopStep
  split
  · exact inv_burstStep h
  · exact inv_currentStep h
  · exact inv_sustainStep ‹_› h
  · exact inv_flushStep h
  · exact inv_reconfirmStep h

/-! ### The poller -/

/-- A command or an expiry that changes the poller owes no pause any more (R430 to R434). -/
theorem sessionInv_clearAutoPaused {s : State} (q : Poller) (h : s.SessionInv) :
    ({ s.clearAutoPaused with poll := q } : State).SessionInv := by
  obtain ⟨hidle, hgated, hbusy, -, hwait⟩ := h
  exact ⟨hidle, hgated, hbusy, nofun, hwait⟩

theorem inv_pollBegin {s : State} (h : s.Inv) : s.pollBegin.Inv := by
  obtain ⟨hv, hc, hrom, ⟨-, hdin⟩, hd, hs, hr, hst, -, hport⟩ := h
  exact ⟨hv, hc, hrom, ⟨Nat.zero_le _, hdin⟩, hd, sessionInv_clearAutoPaused _ hs, hr, hst,
    ⟨nofun, nofun, fun _ => rfl, nofun⟩, hport⟩

theorem inv_openWindow {s : State} (d : Nat) (hp : s.poll.state ≠ .stopped) (h : s.Inv) : (s.openWindow d).Inv := by
  obtain ⟨hv, hc, hrom, hb, hd, hs, hr, hst, ⟨hresp, -, -, hstopped⟩, hport⟩ := h
  exact ⟨hv, hc, hrom, hb, hd, hs, hr, hst, ⟨hresp, fun _ => hp, nofun, hstopped⟩, hport⟩

theorem inv_pollPauseNow {s : State} (h : s.Inv) : s.pollPauseNow.Inv := by
  obtain ⟨hv, hc, hrom, hb, hd, hs, hr, hst, ⟨-, -, hleft, -⟩, hport⟩ := h
  exact ⟨hv, hc, hrom, hb, hd, sessionInv_clearAutoPaused _ hs, hr, hst, ⟨nofun, nofun, hleft, nofun⟩, hport⟩

theorem inv_pollResumeNow {s : State} (h : s.Inv) : s.pollResumeNow.Inv := by
  obtain ⟨hv, hc, hrom, hb, hd, hs, hr, hst, ⟨-, -, hleft, -⟩, hport⟩ := h
  exact ⟨hv, hc, hrom, hb, hd, sessionInv_clearAutoPaused _ hs, hr, hst, ⟨nofun, nofun, hleft, nofun⟩, hport⟩

theorem inv_pollStop {s : State} (h : s.Inv) : s.pollStop.Inv := by
  by_cases hp : s.poll.state = .stopped
  · rwa [State.pollStop, if_pos hp]
  · obtain ⟨hv, hc, hrom, hb, hd, hs, hr, hst, -, hport⟩ := h
    rw [pollStop_eq hp]
    exact ⟨hv, hc, hrom, hb, hd, sessionInv_clearAutoPaused _ hs, hr, hst, ⟨nofun, nofun, fun _ => rfl, fun _ => rfl⟩, hport⟩

/-- A running poller goes to a phase; it awaits a response only with the table ready (R435, R436). -/
theorem inv_setPollPhase {s : State} {ph : PollPhase} (d : Nat) (hp : s.poll.state = .running)
    (hph : ph = .resp → s.crc.tblReady = true) (h : s.Inv) : (s.setPollPhase ph d).Inv := by
  obtain ⟨hv, hc, hrom, hb, hd, hs, hr, hst, ⟨-, hactive, hleft, -⟩, hport⟩ := h
  exact ⟨hv, hc, hrom, hb, hd, hs, hr, hst,
    ⟨fun e => ⟨hp, hph e⟩, hactive, hleft, fun e => absurd (hp.symm.trans e) nofun⟩, hport⟩

theorem inv_pollSend {s : State} (hp : s.poll.state = .running) (ht : s.crc.tblReady = true) (h : s.Inv) :
    s.pollSend.Inv := by
  have hp' : (s.sendFrame s.requestFrame).poll.state = .running := by rw [sendFrame_eq, hp]
  have ht' : (s.sendFrame s.requestFrame).crc.tblReady = true := by rw [sendFrame_eq, ht]
  have hsent := (inv_sendFrame s.requestFrame s).2 h
  unfold State.pollSend
  dsimp only
  split
  · exact inv_setPollPhase _ hp' (fun _ => ht') hsent
  · exact inv_setPollPhase _ (s := (s.sendFrame s.requestFrame).raise _) hp' nofun hsent

theorem inv_pollReadFailed {s : State} (hp : s.poll.state = .running) (h : s.Inv) : s.pollReadFailed.Inv :=
  inv_setPollPhase _ (s := s.raise (.ioErrRead .poll)) hp nofun h

theorem inv_pollReadBytes {s : State} (b : List Byte) (hp : s.poll.state = .running) (h : s.Inv) :
    (s.pollReadBytes b).Inv := by
  have e := ((idles_accPush b s).trans (idles_accScan _)).trans (idles_pollPayloads (s.accPush b).scanOut _)
  exact inv_setPollPhase _ (e.poll ▸ hp) nofun ((inv_pollPayloads _ _).2 (inv_accScan (inv_accPush b h)))

theorem inv_pollRead {s : State} (hp : s.poll.state = .running) (h : s.Inv) : s.pollRead.Inv := by
  have hp' : s.chanRead.poll.state = .running := (idles_chanRead s).poll ▸ hp
  have hread := (inv_chanRead s).2 h
  unfold State.pollRead
  split
  · exact inv_pollReadFailed hp' hread
  · exact inv_pollReadFailed hp' hread
  · exact inv_pollReadBytes _ hp' hread

/-! ### Holds -/

section
variable {s : State} (h : s.Inv)
include h

theorem inv_whenTable {act : State → State} (ha : s.crc.tblReady = true → (act s).Inv) : (s.whenTable act).Inv := by
  unfold State.whenTable
  split
  · exact ha ‹_›
  · exact h

theorem inv_whenLockFree {act : State → State} (ha : s.seq.state = .idle → (act s).Inv) : (s.whenLockFree act).Inv := by
  unfold State.whenLockFree
  split
  · exact ha ((lockFree_iff s).1 ‹_›).1
  · exact h

theorem inv_withDin {n : Nat} {act : List Byte → State → State}
    (ha : (s.din.take n).length = n → (act (s.din.take n) (s.dinDrop n)).Inv) : (s.withDin n act).Inv := by
  unfold State.withDin
  split
  · exact inv_retire h
  · split
    · exact h
    · exact ha (List.length_take_of_le (Nat.not_lt.1 ‹_›))

theorem inv_whenHostOwnsAcc {act : State → State} (ha : (act s).Inv) : (s.whenHostOwnsAcc act).Inv := by
  unfold State.whenHostOwnsAcc
  split
  · exact ha
  · exact h

end

/-! ### The agents -/

/-- Taking the payload, or writing the frame and retiring (R260). -/
theorem inv_execTxFrame {s t : State} {w : Word} {ws : List Word} {n : Nat} (hw : s.cmdPort = w :: ws)
    (hdec : decode w = .instr (.txFrame n)) (hx : execTxFrame n s = .next t) (h : s.Inv) : t.Inv := by
  cases hx
  refine inv_whenTable h fun _ => ?_
  split
  · exact inv_withDin h fun hlen => inv_takePayload (s := s.dinDrop n) hw (by rw [hlen, hdec]) (inv_dinDrop n h)
  · exact inv_whenLockFree h fun _ => inv_retire (by simpa using h)

/-- An accepted TRIGGER takes the gate and starts a ramp; a rejected one changes no register (R390). -/
theorem inv_execTrigger {s t : State} {x : Int} {n : Nat} (hx : execTrigger x n s = .next t) (h : s.Inv) : t.Inv := by
  cases hx
  refine inv_whenTable h fun _ => inv_retire ?_
  split
  · rename_i hfree
    obtain ⟨hgate, hlock⟩ := hfree
    rw [takeGate_eq_withGate]
    exact inv_startRamp x n (.inr rfl) (mayStart_gated ((lockFree_iff s).1 hlock).1 hgate h.session) h
  · exact h

theorem inv_execRampAndHold {s t : State} {x : Int} {n : Nat} (hx : execRampAndHold x n s = .next t) (h : s.Inv) :
    t.Inv := by
  cases hx
  refine inv_whenTable h fun _ => inv_whenLockFree h fun hi => inv_retire ?_
  rw [← withGate_self s]
  exact inv_startRamp x n (.inl rfl) (mayStart_ungated nofun nofun hi h.session) h

theorem inv_setDutyWrite {s : State} (x : Int) (h : s.Inv) : (s.setDutyWrite x).Inv := by
  have hclamp : (clamp x (-Config.dutyClamp) Config.dutyClamp).natAbs ≤ 100 := by
    rw [show Config.dutyClamp = ((100 : Nat) : Int) from rfl, clamp_saturates]
    exact saturate_natAbs_le 100 x
  exact inv_retire ((inv_reportWrite _ _ _).2 (inv_sendDuty hclamp h))

/-- Every command keeps the invariant (R143). Where a command only records on `OUT`, raises an event or writes `CRC_ACC` or
`STICKY`, the invariant reads none of it, and `h` is the claim already. -/
theorem inv_exec {i : Instr} {s t : State} {w : Word} {ws : List Word} (hw : s.cmdPort = w :: ws)
    (hdec : decode w = .instr i) (hx : exec i s = .next t) (h : s.Inv) : t.Inv := by
  cases i
  case txFrame n => exact inv_execTxFrame hw hdec hx h
  case trigger x n => exact inv_execTrigger hx h
  case rampAndHold x n => exact inv_execRampAndHold hx h
  all_goals cases hx
  case nop | crcInit | crcRead | statusClear => exact inv_retire h
  case estop => exact inv_retire (inv_setCancel h)
  case crcUpdate b => exact inv_whenTable h fun _ => inv_retire h
  case tblRead k => exact inv_whenTable h fun _ => inv_retire h
  case crcBlock n => exact inv_whenTable h fun _ => inv_withDin h fun _ => inv_retire (inv_dinDrop n h)
  case decodeGv n => exact inv_withDin h fun _ => inv_retire (inv_dinDrop n h)
  case syncAppend n =>
    have hd := inv_dinDrop n h
    exact inv_withDin h fun _ => inv_retire (inv_whenHostOwnsAcc hd (inv_accPush _ hd))
  case syncExtract => exact inv_whenTable h fun _ => inv_retire (inv_whenHostOwnsAcc h (inv_accScan h))
  case syncClear => exact inv_retire (inv_whenHostOwnsAcc h (inv_clearAcc h))
  case setDuty x => exact inv_whenTable h fun _ => inv_whenLockFree h fun _ => inv_setDutyWrite x h
  case hardStop =>
    exact inv_whenTable h fun _ => inv_whenLockFree h fun hi => inv_retire (inv_stopSession nofun nofun hi h)
  case pollStart =>
    refine inv_retire ?_
    split
    · exact inv_pollBegin h
    · exact h
  case pollStartTemp d =>
    refine inv_retire ?_
    split
    · exact inv_openWindow d (s := s.pollBegin) nofun (inv_pollBegin h)
    · exact h
  case pollPause =>
    refine inv_retire ?_
    split
    · exact h
    · exact inv_pollPauseNow h
  case pollResume =>
    refine inv_retire ?_
    split
    · exact inv_pollResumeNow h
    · exact h
  case pollStop => exact inv_retire (inv_pollStop h)
  case statRead k =>
    refine inv_retire ?_
    split
    · exact h
    · exact h

theorem inv_cmdMove {s t : State} (hm : s.cmdMove = .next t) (h : s.Inv) : t.Inv := by
  unfold State.cmdMove at hm
  split at hm
  · cases hm
    exact h
  · split at hm
    · exact inv_exec ‹_› ‹_› hm h
    · cases hm
      exact inv_retire h

theorem inv_seqMove {s t : State} (hm : s.seqMove = some t) (h : s.Inv) : t.Inv := by
  rcases seqMove_cases hm with ⟨hst, -, rfl⟩ | ⟨hst, -, rfl⟩ | ⟨hst, -, -, -, rfl⟩ | ⟨hst, -, -, rfl⟩
    | ⟨hst, -, -, -, rfl⟩ | ⟨-, -, -, rfl⟩
  · exact inv_stopSession nofun nofun hst h
  · exact inv_enterStopping 0 (by rcases hst with hst | hst | hst <;> simp [hst]) h
  · exact inv_rampUpStep hst h
  · exact inv_endHold hst h
  · exact inv_rampDownStep hst h
  · exact inv_stopStep h

theorem inv_pollMove {s t : State} (hm : s.pollMove = some t) (h : s.Inv) : t.Inv := by
  rcases pollMove_cases hm with ⟨-, -, -, rfl⟩ | ⟨hp, -, ht, -, ⟨-, rfl⟩ | ⟨-, rfl⟩⟩
  · exact inv_pollStop h
  · exact inv_pollSend hp ht h
  · exact inv_pollRead hp h

/-- The cooldown release waits until `GATE_WAIT` is over, so the gate is idle with no wait left (R392). -/
theorem gateReleaseMove_wait {s t : State} (hm : s.gateReleaseMove = some t) : s.gate.wait = 0 := by
  unfold State.gateReleaseMove at hm
  split at hm
  · rename_i hdue
    exact eq_of_beq hdue.2
  · cases hm

theorem inv_gateReleaseMove {s t : State} (hm : s.gateReleaseMove = some t) (h : s.Inv) : t.Inv := by
  have hzero := gateReleaseMove_wait hm
  obtain ⟨hcool, rfl⟩ := gateReleaseMove_some hm
  obtain ⟨hv, hc, hrom, hb, hd, ⟨hidle, hgated, hbusy, hpause, -⟩, hr, hst, hp, hport⟩ := h
  have hfree : ¬ s.seq.sessionGated = true := fun hg => absurd (hcool.symm.trans (hbusy.1 hg)) nofun
  exact ⟨hv, hc, hrom, hb, hd, ⟨hidle, hgated, iff_of_false hfree nofun, hpause, fun _ => hzero⟩, hr, hst, hp, hport⟩

theorem tickDown_of_zero {w : Word} (h : w = 0) : tickDown w = 0 := if_pos h

/-- A tick leaves a wait that is over at 0 (R44, R45). -/
theorem inv_clkStep {s : State} (h : s.Inv) : s.clkStep.Inv := by
  obtain ⟨hv, hc, hrom, hb, hd, ⟨hidle, hgated, hbusy, hpause, hwait⟩, hr, hst, ⟨hresp, hactive, hleft, hstopped⟩, hport⟩ := h
  refine ⟨hv, hc, hrom, hb, hd, ⟨hidle, hgated, hbusy, hpause, fun hg => ?_⟩, hr, hst,
    ⟨hresp, hactive, fun ht => ?_, fun hp => ?_⟩, hport⟩
  · exact tickDown_of_zero (hwait hg)
  · exact tickDown_of_zero (hleft ht)
  · exact tickDown_of_zero (hstopped hp)

/-- The CRC unit after reset: the final table in a ROM, or a generator about to begin (R50, R51, R202). -/
theorem crcInv_resetWith (p : Config.Params) (k : Nat) : (CrcUnit.resetWith p k).Inv := by
  cases hi : p.tableImpl <;> simp only [CrcUnit.Inv, CrcUnit.resetWith, hi, resetTable]
  · exact ⟨romTable_length, by simp, by simp⟩
  · exact ⟨by simp, by simp, fun _ => ⟨by decide, by decide, rfl, rfl⟩⟩

/-- The block after a reset, which starts a stop session where `STOP_ON_RESET` says so (R90, R382, R550). -/
theorem inv_resetWith {p : Config.Params} (hv : p.Valid) (ch : Channel) (d : ChanDraw) (ts : List Turn) (k : Nat) :
    (State.resetWith p ch d ts k).Inv := by
  obtain ⟨-, hburst, -⟩ := valid_bounds hv
  refine ⟨hv, crcInv_resetWith p k, fun hi => ?_, ⟨Nat.zero_le _, Nat.zero_le _⟩,
    ⟨zeroDuty_natAbs_le, Nat.zero_le _⟩, ⟨?_, ?_, iff_of_false nofun nofun, nofun, fun _ => rfl⟩, ?_,
    fun _ => ⟨fun _ => Nat.lt_of_lt_of_le Nat.zero_lt_two hburst, nofun, nofun⟩,
    ⟨nofun, nofun, fun _ => rfl, fun _ => rfl⟩, nofun⟩
  · simp [State.resetWith, CrcUnit.resetWith, show p.tableImpl = .rom from hi]
  all_goals cases hs : p.stopOnReset <;> simp [State.RampInv, State.resetWith, Sequencer.resetWith, hs]

/-! ### The machine -/

/-- An agent's turn keeps the invariant when its enabled step does. -/
theorem inv_orHold {o : Option State} {s t : State} (hx : orHold s o = .next t) (ho : ∀ u, o = some u → u.Inv)
    (h : s.Inv) : t.Inv := by
  cases hx
  cases ho' : o with
  | none => exact h
  | some u => exact ho u ho'

/-- One move of any agent (R40, R41). -/
theorem inv_runMove {m : Move} {s t : State} (hm : runMove m s = .next t) (h : s.Inv) : t.Inv := by
  have seqTurn : orHold s s.seqMove = .next t → t.Inv := fun hx => inv_orHold hx (fun _ hu => inv_seqMove hu h) h
  have pollTurn : orHold s s.pollMove = .next t → t.Inv := fun hx => inv_orHold hx (fun _ hu => inv_pollMove hu h) h
  cases m
  case cmd => exact inv_cmdMove hm h
  case gen => exact inv_orHold hm (fun _ hu => inv_genMove hu h) h
  case poll => exact pollTurn hm
  case seq => exact seqTurn hm
  case gateRelease => exact inv_orHold hm (fun _ hu => inv_gateReleaseMove hu h) h
  case arbiter =>
    simp only [runMove, State.arbiterMove] at hm
    split at hm
    · exact seqTurn hm
    · split at hm
      · exact inv_cmdMove hm h
      · split at hm
        · exact pollTurn hm
        · cases hm
          exact h
  case hostPush b => exact inv_orHold hm (fun _ hu => inv_pushDin hu h) h
  all_goals cases hm
  case clk => exact inv_clkStep h
  case hostPresent w => exact inv_present w h
  case hostEstop => exact inv_setCancel h
  case hostReset => exact inv_resetWith h.valid ..
  case chanReceive | chanTransmit => exact h

/-- No move changes the parameters, a reset included (R9, R550). -/
theorem runMove_params {m : Move} {s t : State} (hm : runMove m s = .next t) : t.params = s.params := by
  by_cases hreset : m = .hostReset
  · subst hreset
    cases hm
    rfl
  rcases runMove_cases hm hreset with ⟨-, hm⟩ | ⟨-, -, rfl⟩ | ⟨-, hm⟩ | ⟨-, hm⟩ | ⟨-, -, rfl⟩ | ⟨-, rfl⟩ | ⟨-, rfl⟩
    | ⟨w, -, rfl⟩ | ⟨b, -, -, rfl⟩ | ⟨c, rfl⟩
  case inl => exact (kept_cmdMove hm).params
  case inr.inr.inl => exact (kept_pollMove hm).params
  case inr.inr.inr.inl => exact (kept_seqMove hm).params
  all_goals rfl

/-- Settles O59: a step is one agent's move in the state whose turn is taken, and every agent's move keeps the invariant and
the parameters. -/
theorem everyStepKeepsTheInvariant : Obligations.EveryStepKeepsTheInvariant := by
  intro s t hstep
  exact ⟨(runMove_params hstep).trans (begin_params s), fun h => inv_runMove hstep ((inv_begin s).2 h)⟩

end Sys2Proof.Machine
end

section
/-! PROOF. What a step leaves of the block's state (10_state.md): who writes `CRC_ACC`, the table, `NOW`, `STICKY` and the
streams, and the values of a reset. First the operations that leave `CRC_ACC` and every sticky bit alone; then the commands,
with the few that do not; then the agents; and at the end the statements about a step. -/

namespace Sys2Proof.Machine

/-! ### What leaves CRC_ACC and the sticky bits alone -/

/-- `CRC_ACC` stays (R53) and no sticky bit is lost (R80). -/
def Spares (s t : State) : Prop := t.crc.crcAcc = s.crc.crcAcc ∧ s.sticky &&& t.sticky = s.sticky

theorem Spares.crcAcc {s t : State} (h : Spares s t) : t.crc.crcAcc = s.crc.crcAcc := h.1

theorem Spares.sticky {s t : State} (h : Spares s t) : s.sticky &&& t.sticky = s.sticky := h.2

theorem Spares.refl (s : State) : Spares s s := ⟨rfl, BitVec.and_self⟩

theorem Spares.trans {a b c : State} (h : Spares a b) (h' : Spares b c) : Spares a c := by
  refine ⟨h'.crcAcc.trans h.crcAcc, ?_⟩
  calc
    a.sticky &&& c.sticky = a.sticky &&& b.sticky &&& c.sticky := by rw [h.sticky]
    _ = a.sticky := by rw [BitVec.and_assoc, h'.sticky, h.sticky]

theorem spares_raise (e : Event) (s : State) : Spares s (s.raise e) := ⟨rfl, stickyAfter_keeps s.sticky [e]⟩

theorem spares_raiseAll (es : List Event) (s : State) : Spares s (s.raiseAll es) := by
  rw [raiseAll_eq]
  exact ⟨rfl, stickyAfter_keeps s.sticky es⟩

theorem spares_reportWrite (o : IoOutcome) (a : Agent) (s : State) : Spares s (s.reportWrite o a) := by
  cases o
  · exact .refl s
  · exact spares_raise _ s

theorem spares_sendFrame (f : List Byte) (s : State) : Spares s (s.sendFrame f) := by
  rw [sendFrame_eq]
  exact .refl s

theorem spares_sendDuty (d : Int) (s : State) : Spares s (s.sendDuty d) := by
  rw [sendDuty_eq]
  exact .refl s

theorem spares_sendCurrentZero (s : State) : Spares s s.sendCurrentZero := by
  rw [sendCurrentZero_eq]
  exact .refl s

/-- A duty frame whose outcome is reported: SET_DUTY and the stop procedure send it (R345, R371, R373). -/
theorem spares_reportDuty (d : Int) (o : IoOutcome) (a : Agent) (s : State) :
    Spares s ((s.sendDuty d).reportWrite o a) :=
  (spares_sendDuty d s).trans (spares_reportWrite o a _)

theorem spares_reportCurrentZero (o : IoOutcome) (a : Agent) (s : State) :
    Spares s (s.sendCurrentZero.reportWrite o a) :=
  (spares_sendCurrentZero s).trans (spares_reportWrite o a _)

theorem spares_chanRead (s : State) : Spares s s.chanRead := by
  rw [chanRead_eq]
  exact .refl s

theorem spares_accPush (b : List Byte) (s : State) : Spares s (s.accPush b) := by
  unfold State.accPush
  dsimp only
  split
  · exact .refl s
  · exact spares_raise _ s

theorem spares_accTrim (s : State) : Spares s s.accTrim := by
  unfold State.accTrim
  split
  · exact spares_raise _ s
  · exact .refl s

theorem spares_accScan (s : State) : Spares s s.accScan := (spares_raiseAll _ s).trans (spares_accTrim _)

theorem spares_pollPayloads (ps : List (List Byte)) (s : State) : Spares s (s.pollPayloads ps) :=
  ⟨congrArg CrcUnit.crcAcc (idles_pollPayloads ps s).crc, pollPayloads_sticky ps s⟩

theorem spares_startSession (k : SessionKind) (s : State) : Spares s (s.startSession k) := by
  rw [startSession_eq]
  exact .refl s

theorem spares_startRamp (k : SessionKind) (x : Int) (n : Nat) (s : State) : Spares s (s.startRamp k x n) := by
  rw [startRamp_eq]
  exact .refl s

theorem spares_completeSession (s : State) : Spares s s.completeSession := by
  rw [completeSession_eq]
  exact .refl s

theorem spares_abortSession (s : State) : Spares s s.abortSession :=
  (spares_raise (.ioErrWrite .seq) s).trans (spares_raise (.sessionAbort s.seq.state) (s.raise (.ioErrWrite .seq)))

theorem spares_pollStop (s : State) : Spares s s.pollStop := by
  unfold State.pollStop
  split <;> exact .refl s

theorem genStep_crcAcc (c : CrcUnit) : c.genStep.crcAcc = c.crcAcc := by
  by_cases hj : c.genJ = 7
  · by_cases hi : c.genI = 255
    · rw [genStep_last hj hi]
    · rw [genStep_entry hj hi]
  · rw [genStep_inside hj]

/-! ### The steps of SEQ and POLL -/

theorem spares_rampUpNext (s : State) : Spares s s.rampUpNext := by
  unfold State.rampUpNext
  split <;> exact .refl s

theorem spares_rampUpStep (s : State) : Spares s s.rampUpStep := by
  unfold State.rampUpStep
  dsimp only
  split
  · exact (spares_sendDuty _ s).trans (spares_abortSession _)
  · exact (spares_sendDuty _ s).trans (spares_rampUpNext _)

theorem spares_endHold (s : State) : Spares s s.endHold := by
  unfold State.endHold
  split <;> exact .refl s

theorem spares_rampDownNext (s : State) : Spares s s.rampDownNext := by
  unfold State.rampDownNext
  split <;> exact .refl s

theorem spares_rampDownStep (s : State) : Spares s s.rampDownStep := by
  unfold State.rampDownStep
  dsimp only
  split
  · exact (spares_sendDuty _ s).trans (spares_abortSession _)
  · exact (spares_sendDuty _ s).trans (spares_rampDownNext _)

theorem spares_sustainStep (s : State) : Spares s s.sustainStep := by
  unfold State.sustainStep
  dsimp only
  split <;> exact spares_reportDuty 0 s.writeOutcome .seq s

theorem spares_flushStep (s : State) : Spares s s.flushStep := by
  unfold State.flushStep
  dsimp only
  split
  · exact .refl s
  · exact spares_completeSession s.chanFlush

theorem spares_stopStep (s : State) : Spares s s.stopStep := by
  unfold State.stopStep
  split
  · exact spares_reportDuty 0 s.writeOutcome .seq s
  · exact spares_reportCurrentZero s.writeOutcome .seq s
  · exact spares_sustainStep s
  · exact spares_flushStep s
  · exact (spares_reportCurrentZero _ _ s).trans (spares_completeSession _)

theorem spares_seqMove {s t : State} (h : s.seqMove = some t) : Spares s t := by
  rcases seqMove_cases h with ⟨-, -, rfl⟩ | ⟨-, -, rfl⟩ | ⟨-, -, -, -, rfl⟩ | ⟨-, -, -, rfl⟩ | ⟨-, -, -, -, rfl⟩
    | ⟨-, -, -, rfl⟩
  · exact spares_startSession .emergency s
  · exact .refl s
  · exact spares_rampUpStep s
  · exact spares_endHold s
  · exact spares_rampDownStep s
  · exact spares_stopStep s

theorem spares_pollSend (s : State) : Spares s s.pollSend := by
  unfold State.pollSend
  dsimp only
  split
  · exact spares_sendFrame _ s
  · exact (spares_sendFrame _ s).trans (spares_raise (.ioErrWrite .poll) (s.sendFrame s.requestFrame))

theorem spares_pollReadFailed (s : State) : Spares s s.pollReadFailed := spares_raise (.ioErrRead .poll) s

theorem spares_pollRead (s : State) : Spares s s.pollRead := by
  have hread := spares_chanRead s
  unfold State.pollRead
  split
  · exact hread.trans (spares_pollReadFailed _)
  · exact hread.trans (spares_pollReadFailed _)
  · exact ((hread.trans (spares_accPush _ _)).trans (spares_accScan _)).trans (spares_pollPayloads _ _)

theorem spares_pollMove {s t : State} (h : s.pollMove = some t) : Spares s t := by
  rcases pollMove_cases h with ⟨-, -, -, rfl⟩ | ⟨-, -, -, -, ⟨-, rfl⟩ | ⟨-, rfl⟩⟩
  · exact spares_pollStop s
  · exact spares_pollSend s
  · exact spares_pollRead s

/-! ### Commands -/

/-- The writers of `CRC_ACC` (R53). -/
def WritesCrcAcc (i : Instr) : Prop := i = .crcInit ∨ (∃ b, i = .crcUpdate b) ∨ ∃ n, i = .crcBlock n

/-- What is peculiar to single commands: the three that write `CRC_ACC` (R53), STATUS_CLEAR, which clears sticky bits
(R482), and TX_FRAME, which holds with a payload it has taken (R260). -/
structure CmdWrites (i : Instr) (s t : State) : Prop where
  crcAcc : t.crc.crcAcc = s.crc.crcAcc ∨ WritesCrcAcc i
  sticky : s.sticky &&& t.sticky = s.sticky ∨ i = .statusClear
  payload : s.cmdData = none → ∀ p, t.cmdData = some p → i = .txFrame p.length

section
variable {i : Instr} {s : State}

theorem CmdWrites.hold : CmdWrites i s s where
  crcAcc := .inl rfl
  sticky := .inl BitVec.and_self
  payload hnone _ hp := nomatch hnone.symm.trans hp

theorem CmdWrites.retire {u : State} (h : Spares s u) : CmdWrites i s u.retire where
  crcAcc := .inl h.crcAcc
  sticky := .inl h.sticky
  payload _ _ hp := nomatch hp

theorem CmdWrites.retire_setCrcAcc {u : State} (hi : WritesCrcAcc i) (v : Half) (hu : u.sticky = s.sticky) :
    CmdWrites i s (u.setCrcAcc v).retire where
  crcAcc := .inr hi
  sticky := .inl (by simp [hu])
  payload _ _ hp := nomatch hp

theorem CmdWrites.whenTable {act : State → State} (ha : CmdWrites i s (act s)) : CmdWrites i s (s.whenTable act) := by
  unfold State.whenTable
  split
  · exact ha
  · exact .hold

theorem CmdWrites.whenLockFree {act : State → State} (ha : CmdWrites i s (act s)) :
    CmdWrites i s (s.whenLockFree act) := by
  unfold State.whenLockFree
  split
  · exact ha
  · exact .hold

theorem CmdWrites.withDin {n : Nat} {act : List Byte → State → State}
    (ha : (s.din.take n).length = n → CmdWrites i s (act (s.din.take n) (s.dinDrop n))) :
    CmdWrites i s (s.withDin n act) := by
  unfold State.withDin
  split
  · exact .retire (spares_raise _ s)
  · split
    · exact .hold
    · exact ha (List.length_take_of_le (Nat.not_lt.1 ‹_›))

end

theorem spares_whenHostOwnsAcc {s : State} {act : State → State} (ha : Spares s (act s)) :
    Spares s (s.whenHostOwnsAcc act) := by
  unfold State.whenHostOwnsAcc
  split
  · exact ha
  · exact spares_raise _ s

/-- TX_FRAME waits with the n bytes it has taken, or writes them and retires (R260). -/
theorem cmdWrites_execTxFrame {n : Nat} {s t : State} (h : execTxFrame n s = .next t) : CmdWrites (.txFrame n) s t := by
  cases h
  refine .whenTable ?_
  split
  · refine .withDin fun hlen => ⟨.inl rfl, .inl BitVec.and_self, fun _ p hp => ?_⟩
    rw [← Option.some.inj hp, hlen]
  · exact .whenLockFree (.retire ((spares_sendFrame _ s).trans (spares_reportWrite _ _ _)))

theorem cmdWrites_exec {i : Instr} {s t : State} (h : exec i s = .next t) : CmdWrites i s t := by
  cases i
  case txFrame n => exact cmdWrites_execTxFrame h
  all_goals cases h
  case nop | crcRead | estop => exact .retire (.refl s)
  case crcInit => exact .retire_setCrcAcc (.inl rfl) 0 rfl
  case crcUpdate b => exact .whenTable (.retire_setCrcAcc (.inr (.inl ⟨b, rfl⟩)) _ rfl)
  case tblRead k => exact .whenTable (.retire (.refl s))
  case crcBlock n => exact .whenTable (.withDin fun _ => .retire_setCrcAcc (.inr (.inr ⟨n, rfl⟩)) _ rfl)
  case syncAppend n =>
    exact .withDin fun _ => .retire (spares_whenHostOwnsAcc (s := s.dinDrop n) (spares_accPush _ _))
  case syncExtract => exact .whenTable (.retire (spares_whenHostOwnsAcc (spares_accScan s)))
  case syncClear => exact .retire (spares_whenHostOwnsAcc (.refl s))
  case decodeGv n => exact .withDin fun _ => .retire (.refl s)
  case setDuty x =>
    exact .whenTable (.whenLockFree (.retire (spares_reportDuty _ _ .cmd s)))
  case rampAndHold x n => exact .whenTable (.whenLockFree (.retire (spares_startRamp .ramp x n s)))
  case trigger x n =>
    refine .whenTable (.retire ?_)
    split
    · exact spares_startRamp .gated x n s.takeGate
    · exact spares_raise _ s
  case hardStop => exact .whenTable (.whenLockFree (.retire (spares_startSession .hard s)))
  case pollStart | pollStartTemp | pollPause | pollResume =>
    refine .retire ?_
    split <;> exact .refl s
  case pollStop => exact .retire (spares_pollStop s)
  case statRead k =>
    refine .retire ?_
    split
    · exact .refl s
    · exact spares_raise _ s
  case statusClear => exact ⟨.inl rfl, .inr rfl, fun _ _ hp => nomatch hp⟩

/-- A command whose step uses the channel is a SET_DUTY or a TX_FRAME, and these spare both. -/
theorem CmdWrites.spares {i : Instr} {s t : State} (h : CmdWrites i s t) (hi : s.commandUsesChannel i = true) :
    Spares s t := by
  obtain ⟨hcrc, hsticky, -⟩ := h
  constructor
  · refine hcrc.resolve_right ?_
    rintro (rfl | ⟨b, rfl⟩ | ⟨n, rfl⟩) <;> exact nomatch hi
  · refine hsticky.resolve_right ?_
    rintro rfl
    exact nomatch hi

/-- Settles O8: TX_FRAME is the one command that leaves a payload waiting, and the payload's length says which. -/
theorem commandRetiresOnceOrHolds : Obligations.CommandRetiresOnceOrHolds := by
  intro i s t hexec
  refine (cmdFrame_exec hexec).port.imp_right (.imp_right ?_)
  rintro ⟨hnone, n, hdepth, hlen, rfl⟩
  have hi := (cmdWrites_exec hexec).payload hnone _ rfl
  rw [List.length_take_of_le hlen] at hi
  exact ⟨n, hi, hnone, hdepth, hlen, rfl⟩

/-! ### The machine -/

/-- A step of `CMD`: no word presented, a command, or a reserved word. -/
theorem cmdMove_writes {s t : State} (h : s.cmdMove = .next t) :
    Spares s t ∨ ∃ w ws i, s.cmdPort = w :: ws ∧ decode w = .instr i ∧ CmdWrites i s t := by
  unfold State.cmdMove at h
  split at h
  · cases h
    exact .inl (.refl s)
  · split at h
    · exact .inr ⟨_, _, _, ‹_›, ‹_›, cmdWrites_exec h⟩
    · cases h
      exact .inl (spares_raise _ s)

/-- A turn of `CMD` is its own, or the arbiter's grant to a command that uses the channel (20_memory.md R112). -/
theorem granted_cmd {m : Move} {s : State} (h : s.granted m = .cmd) : m = .cmd ∨ s.cmdUsesChannel = true := by
  cases m
  case cmd => exact .inl rfl
  case arbiter =>
    simp only [State.granted] at h
    split at h
    · cases h
    · split at h
      · exact .inr ‹_›
      · split at h <;> cases h
  all_goals cases h

/-- Outside a reset, only a command that `CMD` executes in its own turn writes `CRC_ACC` or clears a sticky bit. -/
theorem runMove_spares {m : Move} {s t : State} (hm : runMove m s = .next t) (hreset : m ≠ .hostReset) :
    Spares s t ∨ m = .cmd ∧ ∃ w ws i, s.cmdPort = w :: ws ∧ decode w = .instr i ∧ CmdWrites i s t := by
  rcases runMove_cases hm hreset with ⟨hg, hm⟩ | ⟨-, -, rfl⟩ | ⟨-, hm⟩ | ⟨-, hm⟩ | ⟨-, -, rfl⟩ | ⟨-, rfl⟩ | ⟨-, rfl⟩
    | ⟨w, -, rfl⟩ | ⟨b, -, -, rfl⟩ | ⟨c, rfl⟩
  case inl =>
    rcases cmdMove_writes hm with hs | ⟨w, ws, i, hport, hdec, hw⟩
    · exact .inl hs
    · rcases granted_cmd hg with rfl | hu
      · exact .inr ⟨rfl, w, ws, i, hport, hdec, hw⟩
      · simp only [State.cmdUsesChannel, hport, hdec] at hu
        exact .inl (hw.spares hu)
  case inr.inl => exact .inl ⟨genStep_crcAcc s.crc, BitVec.and_self⟩
  case inr.inr.inl => exact .inl (spares_pollMove hm)
  case inr.inr.inr.inl => exact .inl (spares_seqMove hm)
  all_goals exact .inl (.refl s)

/-- Outside a reset, only `GEN` writes the table, and only before it is ready (R201); only `CLK` writes `NOW` (R44). -/
theorem runMove_kept {m : Move} {s t : State} (hm : runMove m s = .next t) (hreset : m ≠ .hostReset) :
    Kept s t ∨ (s.crc.tblReady = false ∧ t = { s with crc := s.crc.genStep }) ∨ m = .clk ∧ t = s.clkStep := by
  rcases runMove_cases hm hreset with ⟨-, hm⟩ | ⟨-, hg⟩ | ⟨-, hm⟩ | ⟨-, hm⟩ | ⟨-, -, rfl⟩ | hclk | ⟨-, rfl⟩
    | ⟨w, -, rfl⟩ | ⟨b, -, -, rfl⟩ | ⟨c, rfl⟩
  case inl => exact .inl (kept_cmdMove hm)
  case inr.inl => exact .inr (.inl hg)
  case inr.inr.inl => exact .inl (kept_pollMove hm)
  case inr.inr.inr.inl => exact .inl (kept_seqMove hm)
  case inr.inr.inr.inr.inr.inl => exact .inr (.inr hclk)
  all_goals exact .inl ⟨rfl, rfl, rfl, rfl, List.prefix_rfl, List.prefix_rfl⟩

/-- Outside a reset, a move performs at most one channel operation (R113). -/
theorem runMove_records {m : Move} {s t : State} (hm : runMove m s = .next t) (hreset : m ≠ .hostReset) :
    NoRecord s t ∨ OneRecord s t := by
  have hrec : ∀ {b : Bool}, Records b s t → NoRecord s t ∨ OneRecord s t := by
    rintro (_ | _) h
    · exact .inl h
    · exact .inr h
  rcases runMove_cases hm hreset with ⟨-, hm⟩ | ⟨-, -, rfl⟩ | ⟨-, hm⟩ | ⟨-, hm⟩ | ⟨-, -, rfl⟩ | ⟨-, rfl⟩ | ⟨-, rfl⟩
    | ⟨w, -, rfl⟩ | ⟨b, -, -, rfl⟩ | ⟨c, rfl⟩
  case inl => exact hrec (records_cmdMove hm)
  case inr.inr.inl => exact hrec (records_pollMove hm)
  case inr.inr.inr.inl => exact hrec (records_seqMove hm)
  all_goals exact .inl ⟨rfl, rfl⟩

/-- Settles O18: a step of `GEN` changes the table only while it is not ready, and the commands that write `CRC_ACC` run in
turns of `CMD`. -/
theorem crcStateHasNoOtherWriter : Obligations.CrcStateHasNoOtherWriter := by
  intro s t hstep hreset
  rw [← begin_crc s, ← begin_cmdPort s]
  refine ⟨fun hready => ?_, fun hne => ?_⟩
  · rcases runMove_kept hstep hreset with hk | ⟨hgen, -⟩ | ⟨-, rfl⟩
    · exact ⟨hk.tblReady.trans hready, hk.tbl⟩
    · exact nomatch hgen.symm.trans hready
    · exact ⟨hready, rfl⟩
  · rcases runMove_spares hstep hreset with hs | ⟨hcmd, w, ws, i, hport, hdec, hw⟩
    · exact absurd hs.crcAcc hne
    · refine ⟨hcmd, w, ws, hport, ?_⟩
      rw [hdec]
      rcases hw.crcAcc.resolve_left hne with rfl | ⟨b, rfl⟩ | ⟨n, rfl⟩
      · exact .inl rfl
      · exact .inr (.inl ⟨b, rfl⟩)
      · exact .inr (.inr ⟨n, rfl⟩)

/-- Settles O53: the one command that clears a sticky bit is STATUS_CLEAR, and the arbiter never grants it. -/
theorem stickyBitsStayUntilCleared : Obligations.StickyBitsStayUntilCleared := by
  intro s t hstep hreset hclear
  rw [← begin_sticky s]
  rcases runMove_spares hstep hreset with hs | ⟨hcmd, w, ws, i, hport, hdec, hw⟩
  · exact hs.sticky
  · rw [begin_cmdPort] at hport
    exact hw.sticky.resolve_right fun hi => hclear w ws hcmd hport (hdec.trans (congrArg Decoded.instr hi))

/-- Settles O55: an agent's step extends `WIRE` by no record, or by one that says whether the count of R265 goes up. -/
theorem streamsOnlyGrowAndOkWritesAreCounted : Obligations.StreamsOnlyGrowAndOkWritesAreCounted := by
  refine ⟨fun s t hstep hreset => ?_, fun s t hstep hreset => ?_⟩ <;> have hrec := runMove_records hstep hreset
  · rw [← begin_out s, ← begin_log s, ← begin_wire s]
    have hgrow : s.begin.out <+: t.out ∧ s.begin.log <+: t.log := by
      rcases runMove_kept hstep hreset with hk | ⟨-, rfl⟩ | ⟨-, rfl⟩
      · exact ⟨hk.out, hk.log⟩
      all_goals exact ⟨List.prefix_rfl, List.prefix_rfl⟩
    refine ⟨hgrow.1, hgrow.2, ?_⟩
    rcases hrec with ⟨hwire, -⟩ | ⟨r, hwire, -⟩ <;> simp [hwire]
  · rw [← begin_wire s, ← begin_counters s]
    rcases hrec with ⟨hwire, hcount⟩ | ⟨r, hwire, hcount⟩
    · simp [hwire, hcount]
    · rw [hwire, hcount]
      refine ⟨fun f hf => ?_, fun hf => ?_⟩
      · rw [List.append_cancel_left_eq, List.singleton_inj] at hf
        rw [hf]
      · cases r with
        | write f o =>
          cases o with
          | ok => exact absurd rfl (hf f)
          | err => rfl
        | read | flush => rfl

theorem tickDown_eq (w : Word) : tickDown w = BitVec.ofNat 32 (w.toNat - 1) := by
  unfold tickDown
  split
  · next hw => simp [hw]
  · next hw => bv_omega

/-- Settles O54: the tick's registers as R44 counts them; every other move keeps `NOW`. -/
theorem onlyTheClockAdvancesTime : Obligations.OnlyTheClockAdvancesTime := by
  refine ⟨fun s => ?_, fun s t hstep hclk hreset => ?_⟩
  · have hnow : s.now + 1 = BitVec.ofNat 32 (s.now.toNat + 1) := by bv_omega
    simp only [runMove, State.clkStep, tickDown_eq, hnow]
  · rw [← begin_now s]
    rcases runMove_kept hstep hreset with hk | ⟨-, rfl⟩ | ⟨hm, -⟩
    · exact hk.now
    · rfl
    · exact absurd hm hclk

/-- Settles O57: the values of R90 stand in the reset state; the length of the table is a fact of the CRC unit. -/
theorem resetGivesTheListedValues : Obligations.ResetGivesTheListedValues := by
  intro s t d ts hsched hstep
  rw [step_scheduled hsched] at hstep
  cases hstep
  obtain ⟨hlen, -⟩ := crcInv_resetWith s.params (s.turns + 1)
  refine ⟨rfl, rfl, rfl, rfl, rfl, rfl, ?_, hlen, fun hrom => ?_, rfl, rfl, rfl, rfl, rfl, rfl, rfl, rfl, rfl, rfl, rfl,
    rfl, rfl, rfl, rfl⟩
  · cases himpl : s.params.tableImpl <;> simp [State.afterReset, State.resetWith, CrcUnit.resetWith, himpl]
  · simp [State.afterReset, State.resetWith, CrcUnit.resetWith, resetTable, hrom]

theorem valid_default : Config.Params.default.Valid := by decide

/-- Settles O58: the reset state of any valid parameters, of which R9's defaults are one. -/
theorem invariantHoldsAtReset : Obligations.InvariantHoldsAtReset :=
  ⟨fun _ ch d ts k hv => inv_resetWith hv ch d ts k, inv_resetWith valid_default ..⟩

end Sys2Proof.Machine
end

section
/-! PROOF. The channel arbiter (20_memory.md R112): which agent's step an arbiter move is, and that an agent counts as having
a channel step enabled exactly when its step makes a record on `WIRE`. -/

namespace Sys2Proof.Machine

/-! ### An agent that would use the channel has an enabled step -/

theorem seqMove_isSome_of_seqUsesChannel {s : State} (h : s.seqUsesChannel = true) : s.seqMove.isSome = true := by
  rw [seqMove_isSome]
  cases hs : s.seq.state
  case idle | holding => simp [State.seqUsesChannel, hs] at h
  all_goals simp [h]

theorem pollMove_isSome_of_pollUsesChannel {s : State} (h : s.pollUsesChannel = true) : s.pollMove.isSome = true := by
  simp [pollMove_isSome, h]

/-! ### The turn of an agent that may hold -/

/-- A turn makes a record exactly when `b` says so, if the agent's steps do and no channel step is due while it holds. -/
theorem records_orHold {b : Bool} {o : Option State} {s t : State} (h : orHold s o = .next t)
    (hstep : ∀ u, o = some u → Records b s u) (henabled : b = true → o.isSome = true) : Records b s t := by
  cases o with
  | some u =>
    cases h
    exact hstep u rfl
  | none =>
    cases h
    cases b
    · exact ⟨rfl, rfl⟩
    · exact nomatch henabled rfl

/-- Settles O56: the arbiter's move is the granted agent's, and a turn of `SEQ`, `CMD` or `POLL` makes a record on `WIRE`
exactly when the agent's test says so, whether it steps or holds. -/
theorem arbiterGrantsSeqThenCmdThenPoll : Obligations.ArbiterGrantsSeqThenCmdThenPoll := by
  refine ⟨fun s hseq => ?_, fun s hseq hcmd => ?_, fun s hseq hcmd hpoll => ?_, fun s t hm => ?_, fun s t hm => ?_,
    fun s t hm => ?_⟩
  · rw [runMove_granted]
    simp [State.granted, hseq]
  · rw [runMove_granted]
    simp [State.granted, hseq, hcmd]
  · rw [runMove_granted]
    simp [State.granted, hseq, hcmd, hpoll]
  · exact records_wire_ne (records_orHold hm (fun _ => records_seqMove) seqMove_isSome_of_seqUsesChannel)
  · exact records_wire_ne (records_cmdMove hm)
  · exact records_wire_ne (records_orHold hm (fun _ => records_pollMove) pollMove_isSome_of_pollUsesChannel)

end Sys2Proof.Machine
end

section
/-! PROOF. The encoding of commands (30_encoding.md): the words that stand for a command, its unused fields free (R142), are
exactly the words that decode to it; the round trip, the used fields, the reserved opcodes and the examples follow. Then the
command port: what a step runs, and the holds for the table, the lock and `DIN`. -/

namespace Sys2Proof.Machine

/-! ### An operand and its field (R141) -/

@[simp] theorem ofNat_u8Of (a : Byte) : BitVec.ofNat 8 (u8Of a) = a :=
  (BitVec.ofNat_toNat ..).trans (BitVec.setWidth_eq _)

@[simp] theorem ofNat_u16Of (b : Half) : BitVec.ofNat 16 (u16Of b) = b :=
  (BitVec.ofNat_toNat ..).trans (BitVec.setWidth_eq _)

@[simp] theorem ofInt_pctOf (a : Byte) : BitVec.ofInt 8 (pctOf a) = a := BitVec.ofInt_toInt

@[simp] theorem ofInt_spctOf (b : Half) : BitVec.ofInt 16 (spctOf b) = b := BitVec.ofInt_toInt

theorem u8Of_ofNat {i : Nat} (h : fitsU8 i = true) : u8Of (BitVec.ofNat 8 i) = i := toNat_ofNat8 ((fitsU8_iff i).1 h)

theorem u16Of_ofNat {n : Nat} (h : fitsU16 n = true) : u16Of (BitVec.ofNat 16 n) = n :=
  toNat_ofNat16 ((fitsU16_iff n).1 h)

theorem pctOf_ofInt {t : Int} (h : fitsPct t = true) : pctOf (BitVec.ofInt 8 t) = t := toInt_ofInt8 ((fitsPct_iff t).1 h)

theorem spctOf_ofInt {x : Int} (h : fitsSpct x = true) : spctOf (BitVec.ofInt 16 x) = x :=
  toInt_ofInt16 ((fitsSpct_iff x).1 h)

/-! ### The words of a command -/

/-- `w` stands for `i`: the operands of `i` fit their fields (R141), and `w` has the `OP` of `i` and its operands in the
fields the opcode uses. The unused fields are free (R142). -/
structure StandsFor (w : Word) (i : Instr) : Prop where
  wf : i.wf = true
  op : opField w = i.opcode
  a : usesA i = true → aField w = i.aOperand
  b : usesB i = true → bField w = i.bOperand

theorem standsFor_encode {i : Instr} (h : i.WellFormed) : StandsFor (encode i) i :=
  ⟨h, opField_cmdWordOf .., fun _ => aField_cmdWordOf .., fun _ => bField_cmdWordOf ..⟩

/-- A row of the decoder reads its operands from the fields it uses (R143). -/
theorem standsFor_of_decode {w : Word} {i : Instr} (h : decode w = .instr i) : StandsFor w i := by
  unfold decode at h
  dsimp only at h
  split at h <;> cases h <;> rename_i hop
  all_goals
    refine ⟨?_, BitVec.eq_of_toNat_eq hop, ?_, ?_⟩
    · simp [Instr.wf, u8Of_lt, u16Of_lt, pctOf_range, spctOf_range]
    · simp [usesA, Instr.aOperand]
    · simp [usesB, Instr.bOperand]

/-- The opcode selects the row, and an operand that fits its field is read back (R141, R143). -/
theorem decode_of_standsFor {w : Word} {i : Instr} (h : StandsFor w i) : decode w = .instr i := by
  obtain ⟨hwf, hop, ha, hb⟩ := h
  cases i
  case crcUpdate b => simp [decode, hop, ha rfl, Instr.opcode, Instr.aOperand]
  case tblRead k | statRead k => simp [decode, hop, ha rfl, Instr.opcode, Instr.aOperand, u8Of_ofNat hwf]
  case crcBlock n | txFrame n | syncAppend n | decodeGv n | pollStartTemp n =>
    simp [decode, hop, hb rfl, Instr.opcode, Instr.bOperand, u16Of_ofNat hwf]
  case setDuty x => simp [decode, hop, hb rfl, Instr.opcode, Instr.bOperand, spctOf_ofInt hwf]
  case rampAndHold t n | trigger t n =>
    obtain ⟨ht, hn⟩ := Bool.and_eq_true_iff.1 hwf
    simp [decode, hop, ha rfl, hb rfl, Instr.opcode, Instr.aOperand, Instr.bOperand, pctOf_ofInt ht, u16Of_ofNat hn]
  all_goals simp [decode, hop, Instr.opcode]

theorem decode_eq_instr_iff {w : Word} {i : Instr} : decode w = .instr i ↔ StandsFor w i :=
  ⟨standsFor_of_decode, decode_of_standsFor⟩

/-- Settles O1: the word of a command stands for it. -/
theorem decodeInvertsEncode : Obligations.DecodeInvertsEncode :=
  fun _ hwf => decode_eq_instr_iff.2 (standsFor_encode hwf)

theorem aOperand_of_not_usesA {i : Instr} (h : usesA i = false) : i.aOperand = 0 := by
  cases i
  case crcUpdate | tblRead | statRead | rampAndHold | trigger => exact nomatch h
  all_goals rfl

theorem bOperand_of_not_usesB {i : Instr} (h : usesB i = false) : i.bOperand = 0 := by
  cases i
  case crcBlock | txFrame | syncAppend | decodeGv | setDuty | rampAndHold | trigger | pollStartTemp => exact nomatch h
  all_goals rfl

theorem StandsFor.aOperand_eq {w : Word} {i : Instr} (h : StandsFor w i) :
    i.aOperand = if usesA i then aField w else 0 := by
  split
  · exact (h.a ‹_›).symm
  · exact aOperand_of_not_usesA (Bool.eq_false_of_not_eq_true ‹_›)

theorem StandsFor.bOperand_eq {w : Word} {i : Instr} (h : StandsFor w i) :
    i.bOperand = if usesB i then bField w else 0 := by
  split
  · exact (h.b ‹_›).symm
  · exact bOperand_of_not_usesB (Bool.eq_false_of_not_eq_true ‹_›)

/-- Settles O2: a word decodes to a command exactly when it stands for it, which asks nothing of the unused fields. -/
theorem decodeReadsExactlyTheUsedFields : Obligations.DecodeReadsExactlyTheUsedFields := by
  refine ⟨fun w i hdec => ?_, fun w w' i hdec hop ha hb => ?_⟩
  · have hw := decode_eq_instr_iff.1 hdec
    refine ⟨hw.wf, ?_, ?_, ?_⟩
    · rw [encode, opField_cmdWordOf, hw.op]
    · rw [encode, aField_cmdWordOf, hw.aOperand_eq]
    · rw [encode, bField_cmdWordOf, hw.bOperand_eq]
  · obtain ⟨hwf, hop', ha', hb'⟩ := decode_eq_instr_iff.1 hdec
    exact decode_eq_instr_iff.2
      ⟨hwf, hop.trans hop', fun hu => (ha hu).trans (ha' hu), fun hu => (hb hu).trans (hb' hu)⟩

/-! ### The reserved opcodes (R144) -/

theorem opcode_not_reserved (i : Instr) : ¬ reservedOpcode i.opcode.toNat := by
  cases i <;> simp [reservedOpcode, Instr.opcode]

/-- A word is rejected only when its `OP` is none of the rows' numbers. -/
theorem reserved_of_decode {w : Word} {op : Byte} (h : decode w = .reserved op) :
    op = opField w ∧ reservedOpcode (opField w).toNat := by
  unfold decode at h
  dsimp only at h
  split at h <;> cases h
  have hlt := (opField w).isLt
  refine ⟨rfl, ?_⟩
  unfold reservedOpcode
  simp only [imp_false] at *
  omega

/-- Settles O3: no row's opcode is in R144's list, and the decoder's last case is reached by R144's numbers only. -/
theorem reservedOpcodesAreExactlyTheListedOnes : Obligations.ReservedOpcodesAreExactlyTheListedOnes := by
  intro w
  cases hdec : decode w with
  | instr i =>
    refine ⟨fun hres => ?_, fun _ => ⟨i, rfl⟩⟩
    rw [(decode_eq_instr_iff.1 hdec).op] at hres
    exact absurd hres (opcode_not_reserved i)
  | reserved op =>
    obtain ⟨rfl, hres⟩ := reserved_of_decode hdec
    exact ⟨fun _ => rfl, fun hnot => absurd hres hnot⟩

/-! ### The examples (R162) -/

theorem decode_and_encode {i : Instr} {w : Word} (hwf : i.WellFormed) (hw : encode i = w) :
    decode w = .instr i ∧ encode i = w :=
  ⟨hw ▸ decodeInvertsEncode i hwf, hw⟩

/-- Settles O4: each command of the table is well formed and encodes to its word, so the word decodes back. -/
theorem encodingExamples : Obligations.EncodingExamples :=
  ⟨decode_and_encode rfl rfl, decode_and_encode rfl rfl, decode_and_encode rfl rfl, decode_and_encode rfl rfl,
    decode_and_encode rfl rfl, decode_and_encode rfl rfl, decode_and_encode rfl rfl, decode_and_encode rfl rfl,
    decode_and_encode rfl rfl, decode_and_encode rfl rfl⟩

/-! ### The step and the command port (R146) -/

theorem cmdMove_instr {s : State} {w : Word} {ws : List Word} {i : Instr} (hport : s.cmdPort = w :: ws)
    (hdec : decode w = .instr i) : s.cmdMove = exec i s := by
  simp only [State.cmdMove, hport, hdec]

theorem cmdMove_empty {s : State} (hport : s.cmdPort = []) : s.cmdMove = .next s := by
  simp only [State.cmdMove, hport]

theorem orHold_cases (s t : State) (o : Option State) :
    (o = some t → orHold s o = .next t) ∧ (o = none → orHold s o = .next s) := by
  constructor <;> rintro rfl <;> rfl

/-- Settles O5: a scheduled step is its move's, and the move of `CMD` is the decoded command's. -/
theorem stepRunsTheDecodedCommand : Obligations.StepRunsTheDecodedCommand := by
  refine ⟨fun s w ws d ts i hport hsched hdec => ?_, fun s m d ts hsched => step_scheduled hsched,
    fun s t => orHold_cases s t s.seqMove, fun s t => orHold_cases s t s.pollMove, fun s hport => cmdMove_empty hport,
    fun s w => rfl⟩
  rw [step_scheduled hsched]
  exact cmdMove_instr (s := { s with schedule := ts, draw := d }) hport hdec

/-! ### Holds (R147, R148, R342) -/

theorem lockFree_eq_false_iff (s : State) : s.lockFree = false ↔ s.seq.state ≠ .idle ∨ s.seq.cancel = true := by
  rw [← Bool.not_eq_true, lockFree_iff, not_and_or, Bool.not_eq_false]

/-- Settles O9: each of these commands has something it holds for. -/
theorem commandsHoldForTheTableAndTheLock : Obligations.CommandsHoldForTheTableAndTheLock := by
  refine ⟨⟨fun i s hneeds hready => ?_, fun p ch d ts k hrom => ?_⟩, fun s hlock => ?_⟩
  · exact (exec_holds_iff i s).2 (.inl ⟨hneeds, hready⟩)
  · exact decide_eq_true hrom
  · have hheld := (lockFree_eq_false_iff s).2 hlock
    refine ⟨fun x => ?_, fun t h => ?_, ?_, fun n p htaken => ?_⟩
    · exact (exec_holds_iff (.setDuty x) s).2 (.inr (.inr ⟨hheld, trivial⟩))
    · exact (exec_holds_iff (.rampAndHold t h) s).2 (.inr (.inr ⟨hheld, trivial⟩))
    · exact (exec_holds_iff .hardStop s).2 (.inr (.inr ⟨hheld, trivial⟩))
    · exact (exec_holds_iff (.txFrame n) s).2 (.inr (.inr ⟨hheld, by simp [htaken]⟩))

/-- Past its table hold, and with no bytes taken yet, a command refuses a length above `DIN_DEPTH` (R147). -/
theorem exec_refuses_length {i : Instr} {n : Nat} {s : State} (hcount : dinCount i = some n) (hnone : s.cmdData = none)
    (htable : needsTable i = true → s.crc.tblReady = true) (hlong : s.params.dinDepth < n) :
    exec i s = .next (s.raise (.illegalCmd s.cmdWord)).retire := by
  cases i <;> cases hcount
  case crcBlock => rw [exec, execCrcBlock, whenTable_ready (htable rfl), withDin_tooLong hlong]
  case txFrame =>
    rw [exec, execTxFrame, whenTable_ready (htable rfl), hnone]
    exact congrArg _ (withDin_tooLong hlong _)
  case syncAppend => rw [exec, execSyncAppend, withDin_tooLong hlong]
  case decodeGv => rw [exec, execDecodeGv, withDin_tooLong hlong]

/-- A push needs room, and holds without it (R56). -/
theorem pushDin_room {b : Byte} {s : State} (h : s.din.length < s.params.dinDepth) :
    s.pushDin b = some { s with din := s.din ++ [b] } := if_pos h

theorem pushDin_full {b : Byte} {s : State} (h : s.params.dinDepth ≤ s.din.length) : s.pushDin b = none :=
  if_neg (Nat.not_lt.2 h)

/-- Settles O10: the length test comes first, a short `DIN` is a hold, and a push is one move of `HOST`. -/
theorem dinIsPushedCheckedAndAwaited : Obligations.DinIsPushedCheckedAndAwaited := by
  refine ⟨fun i n s hcount hnone htable => ⟨fun hlong => ?_, fun hfits hshort => ?_⟩,
    fun s b => ⟨fun hroom => ?_, fun hfull => ?_⟩⟩
  · exact exec_refuses_length hcount hnone htable hlong
  · exact (exec_holds_iff i s).2 (.inr (.inl ⟨n, hcount, fun _ => hnone, hfits, hshort⟩))
  · exact (orHold_cases s _ _).1 (pushDin_room hroom)
  · exact (orHold_cases s s _).2 (pushDin_full hfull)

end Sys2Proof.Machine
end

section
/-! PROOF. The CRC unit (40_crc.md): the table-driven step of R203 is one byte of the bit-serial CRC, and R205 follows; the
commands CRC_INIT to CRC_BLOCK; and the generator, counted by the steps it has taken. -/

namespace Sys2Proof.Machine

/-! ### The two bytes of a register -/

theorem entryStart_toNat (b : Byte) : entryStart b.toNat = b.setWidth 16 <<< 8 := by rw [entryStart, BitVec.ofNat_toNat]

theorem entryStart_xor (a b : Byte) : entryStart (a ^^^ b).toNat = entryStart a.toNat ^^^ entryStart b.toNat := by
  rw [entryStart_toNat, entryStart_toNat, entryStart_toNat, BitVec.setWidth_xor, BitVec.shiftLeft_xor_distrib]

theorem shiftLeft_eight_eight (v : Half) : v <<< 8 <<< 8 = 0 := by
  rw [← BitVec.shiftLeft_add]
  exact BitVec.shiftLeft_eq_zero (Nat.le_refl 16)

theorem loByte_xor_hiByte (v : Half) : (loByte v).setWidth 16 ^^^ entryStart (hiByte v).toNat = v := by
  rw [entryStart_toNat]
  apply BitVec.eq_of_getLsbD_eq
  intro i hi
  simp only [BitVec.getLsbD_xor, BitVec.getLsbD_setWidth, BitVec.getLsbD_shiftLeft, hiByte, loByte,
    BitVec.getLsbD_extractLsb']
  by_cases h : i < 8
  · simp [h, hi]
  · simp [h, hi, show i - 8 < 8 by omega, show i - 8 < 16 by omega, show 8 + (i - 8) = i by omega]

theorem setWidth_loByte_shiftLeft (v : Half) : (loByte v).setWidth 16 <<< 8 = v <<< 8 := by
  have hhigh : entryStart (hiByte v).toNat <<< 8 = 0 := shiftLeft_eight_eight _
  calc
    (loByte v).setWidth 16 <<< 8 = ((loByte v).setWidth 16 ^^^ entryStart (hiByte v).toNat) <<< 8 := by
      rw [BitVec.shiftLeft_xor_distrib, hhigh]
      exact BitVec.xor_zero.symm
    _ = v <<< 8 := by rw [loByte_xor_hiByte]

theorem hiByte_shiftLeft (v : Half) : hiByte (v <<< 8) = loByte v := by
  apply BitVec.eq_of_getLsbD_eq
  intro i hi
  simp only [hiByte, loByte, BitVec.getLsbD_extractLsb', BitVec.getLsbD_shiftLeft]
  simp [show 8 + i < 16 by omega]

theorem ushiftRight_eq_hiByte (v : Half) : v >>> 8 = (hiByte v).setWidth 16 := by
  apply BitVec.eq_of_getLsbD_eq
  intro i hi
  simp only [hiByte, BitVec.getLsbD_setWidth, BitVec.getLsbD_extractLsb', BitVec.getLsbD_ushiftRight]
  by_cases h : i < 8
  · simp [h, hi]
  · simp [h, BitVec.getLsbD_of_ge v (8 + i) (by omega)]

theorem setWidth_and_byteMask (b : Byte) : b.setWidth 16 &&& 0x00FF = b.setWidth 16 := by
  rw [show (0x00FF : Half) = (BitVec.allOnes 8).setWidth 16 from rfl, ← BitVec.setWidth_and, BitVec.and_allOnes]

/-! ### A table entry is eight bits of the bit-serial CRC (R200, R205) -/

theorem serialBits_xor (n : Nat) (a b : Half) : serialBits n (a ^^^ b) = serialBits n a ^^^ serialBits n b := by
  induction n generalizing a b with
  | zero => rfl
  | succ n ih =>
    rw [serialBits, serialBit_xor, ih]
    rfl

theorem serialBit_eq_shiftLeft {v : Half} (h : v.msb = false) : serialBit v = v <<< 1 := by
  rw [serialBit, h, if_neg Bool.false_ne_true]

/-- While no 1 reaches the top bit, the bit-serial CRC only shifts. -/
theorem serialBits_eq_shiftLeft {n : Nat} {v : Half} (h : v.toNat * 2 ^ n < 2 ^ 16) : serialBits n v = v <<< n := by
  induction n generalizing v with
  | zero => exact (BitVec.shiftLeft_zero _).symm
  | succ n ih =>
    rw [Nat.pow_succ'] at h
    have hmsb : 2 * v.toNat < 2 ^ 16 := by
      have := Nat.le_mul_of_pos_right (v.toNat * 2) (Nat.two_pow_pos n)
      rw [← Nat.mul_assoc] at h
      omega
    have hshift : (v <<< 1).toNat * 2 ^ n < 2 ^ 16 := by
      rwa [BitVec.toNat_shiftLeft, Nat.shiftLeft_eq, Nat.pow_one, Nat.mod_eq_of_lt (by omega), Nat.mul_assoc]
    rw [serialBits, serialBit_eq_shiftLeft (BitVec.msb_eq_false_iff_two_mul_lt.2 hmsb), ih hshift, ← BitVec.shiftLeft_add,
      Nat.add_comm]

theorem and_top_eq_zero_iff (v : Half) : v &&& 0x8000 = 0 ↔ v.msb = false := by
  have hmsb : v.msb = v.getLsbD 15 := rfl
  rw [show (0x8000 : Half) = BitVec.twoPow 16 15 from rfl, BitVec.and_twoPow, hmsb]
  cases v.getLsbD 15 <;> simp

/-- R200 tests the top bit of `crc ^ c`, which is the register of the bit-serial CRC. -/
theorem serialBit_xor_eq_tableIterCrc (crc c : Half) : serialBit (crc ^^^ c) = tableIterCrc crc c ^^^ (c <<< 1) := by
  simp only [serialBit, tableIterCrc, and_top_eq_zero_iff, BitVec.shiftLeft_xor_distrib]
  cases (crc ^^^ c).msb
  · rfl
  · change (crc <<< 1) ^^^ (c <<< 1) ^^^ 0x1021 = (crc <<< 1) ^^^ 0x1021 ^^^ (c <<< 1)
    ac_rfl

theorem serialBits_xor_eq_tableIters (n : Nat) (crc c : Half) :
    serialBits n (crc ^^^ c) = (tableIters n crc c).1 ^^^ (tableIters n crc c).2 := by
  induction n generalizing crc c with
  | zero => rfl
  | succ n ih =>
    rw [serialBits, serialBit_xor_eq_tableIterCrc, ih]
    rfl

theorem tableIters_snd (n : Nat) (crc c : Half) : (tableIters n crc c).2 = c <<< n := by
  induction n generalizing crc c with
  | zero => exact (BitVec.shiftLeft_zero _).symm
  | succ n ih => rw [tableIters, ih, ← BitVec.shiftLeft_add, Nat.add_comm]

/-- `table_entry(i)`: R200 starts from `crc` 0, and its register `c` has shifted out by the end. -/
theorem tableEntry_eq_serialBits (i : Nat) : tableEntry i = serialBits 8 (entryStart i) := by
  have hout : (tableIters 8 0 (entryStart i)).2 = 0 := (tableIters_snd ..).trans (shiftLeft_eight_eight _)
  calc
    tableEntry i = (tableIters 8 0 (entryStart i)).1 ^^^ (tableIters 8 0 (entryStart i)).2 := by
      rw [hout]
      exact BitVec.xor_zero.symm
    _ = serialBits 8 (0 ^^^ entryStart i) := (serialBits_xor_eq_tableIters ..).symm
    _ = serialBits 8 (entryStart i) := congrArg _ BitVec.zero_xor

/-! ### The table-driven CRC is the bit-serial one (R203, R205) -/

theorem crcStep_romTable (crc : Half) (b : Byte) :
    crcStep romTable crc b = (crc <<< 8) ^^^ tableEntry (hiByte crc ^^^ b).toNat := by
  rw [crcStep, tblAt_romTable (hiByte crc ^^^ b).isLt]

/-- A byte added at the top of a register leaves its low byte and enters the index of R203. -/
theorem xor_entryStart (crc : Half) (b : Byte) :
    crc ^^^ entryStart b.toNat = (loByte crc).setWidth 16 ^^^ entryStart (hiByte crc ^^^ b).toNat := by
  rw [entryStart_xor, ← BitVec.xor_assoc, loByte_xor_hiByte]

/-- Over eight bits the low byte of the register only shifts, and the high byte with the data byte gives the table entry. -/
theorem crcStep_romTable_eq_serialByte (crc : Half) (b : Byte) : crcStep romTable crc b = serialByte crc b := by
  have hlow : ((loByte crc).setWidth 16).toNat * 2 ^ 8 < 2 ^ 16 := by
    have := (loByte crc).isLt
    rw [BitVec.toNat_setWidth_of_le (by decide)]
    omega
  calc
    crcStep romTable crc b = (crc <<< 8) ^^^ tableEntry (hiByte crc ^^^ b).toNat := crcStep_romTable crc b
    _ = serialBits 8 ((loByte crc).setWidth 16) ^^^ serialBits 8 (entryStart (hiByte crc ^^^ b).toNat) := by
      rw [serialBits_eq_shiftLeft hlow, setWidth_loByte_shiftLeft, tableEntry_eq_serialBits]
    _ = serialByte crc b := by rw [← serialBits_xor, ← xor_entryStart, entryStart_toNat, serialByte]

/-- Settles O16: both CRCs fold the same step over the bytes. -/
theorem tableCrcIsTheBitSerialCrc : Obligations.TableCrcIsTheBitSerialCrc := by
  intro data
  have hstep : crcStep romTable = serialByte := funext₂ crcStep_romTable_eq_serialByte
  rw [crc16, crcRun, hstep, crcSerial]

/-! ### Leading zeros, residue and linearity (R205) -/

/-- A data byte equal to the high byte of the register leaves only the shift: entry 0 is 0. -/
theorem crcStep_romTable_hiByte (v : Half) : crcStep romTable v (hiByte v) = v <<< 8 := by
  rw [crcStep_romTable, BitVec.xor_self]
  exact BitVec.xor_zero

theorem crc16_zero_cons (p : List Byte) : crc16 romTable (0x00 :: p) = crc16 romTable p :=
  congrArg (crcRun romTable · p) (crcStep_romTable_hiByte 0)

theorem crc16_replicate_zero (n : Nat) : crc16 romTable (List.replicate n 0x00) = 0x0000 := by
  induction n with
  | zero => rfl
  | succ n ih => rw [List.replicate_succ, crc16_zero_cons, ih]

/-- A register's own two bytes, fed big-endian, shift it out. -/
theorem crcRun_bytesBe16 (v : Half) : crcRun romTable v (bytesBe16 v) = 0 :=
  calc
    crcRun romTable v (bytesBe16 v) = crcStep romTable (crcStep romTable v (hiByte v)) (loByte v) := rfl
    _ = v <<< 8 <<< 8 := by rw [crcStep_romTable_hiByte, ← hiByte_shiftLeft, crcStep_romTable_hiByte]
    _ = 0 := shiftLeft_eight_eight v

theorem serialByte_xor (u v : Half) (x y : Byte) : serialByte (u ^^^ v) (x ^^^ y) = serialByte u x ^^^ serialByte v y := by
  unfold serialByte
  rw [← serialBits_xor, BitVec.setWidth_xor, BitVec.shiftLeft_xor_distrib]
  congr 1
  ac_rfl

theorem crcStep_romTable_xor (u v : Half) (x y : Byte) :
    crcStep romTable (u ^^^ v) (x ^^^ y) = crcStep romTable u x ^^^ crcStep romTable v y := by
  simp only [crcStep_romTable_eq_serialByte, serialByte_xor]

theorem crcRun_zipWith_xor {a b : List Byte} (h : a.length = b.length) (u v : Half) :
    crcRun romTable (u ^^^ v) (List.zipWith (· ^^^ ·) a b) = crcRun romTable u a ^^^ crcRun romTable v b := by
  induction a generalizing b u v with
  | nil =>
    cases b with
    | nil => rfl
    | cons y b => cases h
  | cons x a ih =>
    cases b with
    | nil => cases h
    | cons y b =>
      calc
        crcRun romTable (u ^^^ v) (List.zipWith (· ^^^ ·) (x :: a) (y :: b))
            = crcRun romTable (crcStep romTable u x ^^^ crcStep romTable v y) (List.zipWith (· ^^^ ·) a b) :=
          congrArg (crcRun romTable · _) (crcStep_romTable_xor u v x y)
        _ = crcRun romTable u (x :: a) ^^^ crcRun romTable v (y :: b) := ih (Nat.succ.inj h) _ _

/-- Settles O17: linearity is that of a run from two registers, taken from 0 and 0. -/
theorem crcResidueZerosAndLinearity : Obligations.CrcResidueZerosAndLinearity := by
  refine ⟨crc16_zero_cons, crc16_replicate_zero, fun p => ?_, fun a b h => crcRun_zipWith_xor h 0 0⟩
  rw [crc16, crcRun_append]
  exact crcRun_bytesBe16 _

/-! ### The commands (R211 to R215, R482, R483) -/

/-- Settles O11: these commands test nothing, so their next state is the one operation and the retirement. -/
theorem plainCommandsRunAtOnce : Obligations.PlainCommandsRunAtOnce :=
  ⟨fun _ => ⟨rfl, rfl⟩, fun _ => ⟨rfl, rfl⟩⟩

section
variable {s : State} (hready : s.crc.tblReady = true)
include hready

theorem exec_crcUpdate (b : Byte) :
    exec (.crcUpdate b) s = .next (s.setCrcAcc (crcStep s.crc.tbl s.crc.crcAcc b)).retire := by
  rw [exec, execCrcUpdate, whenTable_ready hready]

theorem exec_tblRead (i : Nat) :
    exec (.tblRead i) s = .next (s.emitOut (.result (zext32 (tblAt s.crc.tbl i)))).retire := by
  rw [exec, execTblRead, whenTable_ready hready]

theorem exec_crcBlock {n : Nat} (hcap : n ≤ s.params.dinDepth) (hlen : n ≤ s.din.length) :
    exec (.crcBlock n) s
      = .next ((s.dinDrop n).setCrcAcc (crcRun s.crc.tbl s.crc.crcAcc (s.din.take n))).retire := by
  rw [exec, execCrcBlock, whenTable_ready hready, withDin_take hcap hlen]
  rfl

end

/-- The index of R203, over 16 bits and masked, is the model's 8-bit one. -/
theorem crcIndex_toNat (crc : Half) (b : Byte) :
    (((crc >>> 8) ^^^ b.setWidth 16) &&& 0x00FF).toNat = (hiByte crc ^^^ b).toNat := by
  rw [ushiftRight_eq_hiByte, ← BitVec.setWidth_xor, setWidth_and_byteMask, BitVec.toNat_setWidth_of_le (by decide)]

/-- Settles O12: the step of R203 with its index written out, and the hold for the table. -/
theorem crcUpdateStepsTheAccumulator : Obligations.CrcUpdateStepsTheAccumulator := by
  refine fun b s => ⟨fun hready => ?_, fun hready => ?_⟩
  · rw [exec_crcUpdate hready, crcIndex_toNat]
    rfl
  · rw [exec, execCrcUpdate, whenTable_hold hready]

/-- Settles O13: by the invariant a ready table is R200's. -/
theorem tblReadEmitsTheEntry : Obligations.TblReadEmitsTheEntry := by
  refine fun i s hready => ⟨exec_tblRead hready i, fun hi hinv => ?_⟩
  obtain ⟨-, hrom, -⟩ := hinv
  rw [hrom hready, tblAt_romTable hi]

/-- CRC_UPDATE commands one after another run the CRC over their bytes and leave the rest of the CRC unit alone. -/
theorem execAll_crcUpdate (data : List Byte) {s : State} (hready : s.crc.tblReady = true) :
    ∃ u, execAll (data.map .crcUpdate) s = .next u
      ∧ u.crc = { s.crc with crcAcc := crcRun s.crc.tbl s.crc.crcAcc data } := by
  induction data generalizing s with
  | nil => exact ⟨s, rfl, rfl⟩
  | cons b data ih =>
    obtain ⟨u, hrun, hcrc⟩ := ih (s := (s.setCrcAcc (crcStep s.crc.tbl s.crc.crcAcc b)).retire) hready
    refine ⟨u, ?_, hcrc⟩
    rw [List.map_cons, execAll, exec_crcUpdate hready]
    exact hrun

/-- Settles O14: the block and the updates run the CRC over the same bytes. -/
theorem crcBlockEqualsTheUpdates : Obligations.CrcBlockEqualsTheUpdates := by
  intro data rest s hready hdin hcap
  obtain ⟨u, hrun, hcrc⟩ := execAll_crcUpdate data hready
  have hlen : data.length ≤ s.din.length := by simp [hdin]
  refine ⟨_, u, exec_crcBlock hready hcap hlen, hrun, ?_⟩
  simp [State.retire, State.setCrcAcc, State.dinDrop, hdin, hcrc]

/-! ### The generator counts 2048 steps (R201) -/

theorem genRun_succ (k : Nat) (c : CrcUnit) : genRun (k + 1) c = (genRun k c).genStep := genRun_add k 1 c

theorem genRun_crcAcc (k : Nat) (c : CrcUnit) : (genRun k c).crcAcc = c.crcAcc := by
  induction k with
  | zero => rfl
  | succ k ih => rw [genRun_succ, genStep_crcAcc, ih]

/-- The generator, not yet done, has taken `k` steps: 8 for each entry before `GEN_I`, and `GEN_J` in this one. -/
def CrcUnit.GenAt (c : CrcUnit) (k : Nat) : Prop :=
  c.Inv ∧ c.tblReady = false ∧ 8 * c.genI.toNat + c.genJ.toNat = k

/-- The count determines `GEN_I` and `GEN_J`, which stays below 8. -/
theorem CrcUnit.GenAt.registers {c : CrcUnit} {k : Nat} (h : c.GenAt k) :
    c.genI.toNat = k / 8 ∧ c.genJ.toNat = k % 8 := by
  obtain ⟨⟨-, -, hgen⟩, hready, rfl⟩ := h
  obtain ⟨-, hj, -⟩ := hgen hready
  omega

/-- The generator's reset registers (R51, R90), whatever the table holds. -/
theorem genAt_zero {c : CrcUnit} (hlen : c.tbl.length = 256) (hready : c.tblReady = false) (hI : c.genI = 0)
    (hJ : c.genJ = 0) (hcrc : c.genCrc = 0) (hc : c.genC = 0) : c.GenAt 0 := by
  refine ⟨⟨hlen, fun hr => absurd (hready.symm.trans hr) nofun, fun _ => ?_⟩, hready, ?_⟩
  · rw [hI, hJ, hcrc, hc]
    exact ⟨by decide, by decide, rfl, rfl⟩
  · rw [hI, hJ]
    rfl

/-- A step before the last adds one to the count, inside an entry and from one entry to the next. -/
theorem CrcUnit.GenAt.genStep {c : CrcUnit} {k : Nat} (h : c.GenAt k) (hk : k < 2047) : c.genStep.GenAt (k + 1) := by
  obtain ⟨hinv, hready, hcount⟩ := h
  refine ⟨crcInv_genStep hready hinv, ?_⟩
  obtain ⟨-, -, hgen⟩ := hinv
  obtain ⟨hi, hj, -⟩ := hgen hready
  by_cases h7 : c.genJ = 7
  · have hJ : c.genJ.toNat = 7 := congrArg BitVec.toNat h7
    have hlast : c.genI ≠ 255 := fun h255 => by
      have hI : c.genI.toNat = 255 := congrArg BitVec.toNat h255
      omega
    have hI : (c.genI + 1).toNat = c.genI.toNat + 1 :=
      BitVec.toNat_add_of_lt (Nat.lt_trans (Nat.succ_lt_succ hi) (by decide))
    rw [genStep_entry h7 hlast]
    refine ⟨hready, ?_⟩
    change 8 * (c.genI + 1).toNat + 0 = k + 1
    omega
  · have hJ : (c.genJ + 1).toNat = c.genJ.toNat + 1 :=
      BitVec.toNat_add_of_lt (Nat.lt_trans (Nat.succ_lt_succ hj) (by decide))
    rw [genStep_inside h7]
    exact ⟨hready, by rw [hJ, ← hcount, Nat.add_assoc]⟩

theorem genAt_genRun {c : CrcUnit} (h : c.GenAt 0) {k : Nat} (hk : k < 2048) : (genRun k c).GenAt k := by
  induction k with
  | zero => exact h
  | succ k ih =>
    rw [genRun_succ]
    exact (ih (by omega)).genStep (by omega)

/-- After 2047 steps only the last iteration of the last entry is left (R201). -/
theorem genStep_of_genAt_2047 {c : CrcUnit} (h : c.GenAt 2047) :
    c.genStep.tblReady = true ∧ c.genStep.tbl = romTable ∧ c.genStep.genI = 256 ∧ c.genStep.genJ = 8 := by
  obtain ⟨hI, hJ⟩ := h.registers
  obtain ⟨hinv, hready, -⟩ := h
  have hstep := genStep_last (BitVec.eq_of_toNat_eq hJ) (BitVec.eq_of_toNat_eq hI)
  have hdone : c.genStep.tblReady = true := by rw [hstep]
  obtain ⟨-, hrom, -⟩ := crcInv_genStep hready hinv
  exact ⟨hdone, hrom hdone, by rw [hstep], by rw [hstep]⟩

theorem genMove_generator {s : State} (hi : s.params.tableImpl = .generator) (hn : s.crc.tblReady = false) :
    s.genMove = some { s with crc := s.crc.genStep } := if_pos ⟨hi, hn⟩

theorem genMove_hold {s : State} (h : s.params.tableImpl = .rom ∨ s.crc.tblReady = true) : s.genMove = none := by
  refine if_neg ?_
  rintro ⟨hi, hn⟩
  rcases h with h | h
  · exact nomatch hi.symm.trans h
  · exact nomatch hn.symm.trans h

/-- Settles O15: the count is `k` after `k` steps below 2048, and the step after 2047 completes the table. -/
theorem generatorTakesExactly2048Steps : Obligations.GeneratorTakesExactly2048Steps := by
  refine ⟨fun c hlen hready hI hJ hcrc hc => ?_, fun s => ⟨fun hi hn => ?_, fun h => ?_⟩⟩
  · have hstart := genAt_zero hlen hready hI hJ hcrc hc
    obtain ⟨hdone, htbl, hI', hJ'⟩ := genStep_of_genAt_2047 (genAt_genRun hstart (k := 2047) (by decide))
    rw [← genRun_succ] at hdone htbl hI' hJ'
    refine ⟨fun k hk => ?_, hdone, htbl, hI', hJ', genRun_crcAcc 2048 c⟩
    obtain ⟨-, hnot, -⟩ := genAt_genRun hstart hk
    exact hnot
  · exact (orHold_cases s _ _).1 (genMove_generator hi hn)
  · exact (orHold_cases s s _).2 (genMove_hold h)

end Sys2Proof.Machine
end

section
/-! PROOF. The framer and the synchronizer (41_framer.md). First the layout of a frame, and what the scan does where a
complete short frame stands and before it; then what one pass of the scan can do, and the invariant that follows. On these
rest the statements about corrupt frames and about a frame in two reads. At the end the commands TX_FRAME, SYNC_APPEND,
SYNC_CLEAR and SYNC_EXTRACT. -/

namespace Sys2Proof.Machine

/-! ### The layout of a frame (R240) -/

theorem hiByte_ofNat (n : Nat) : hiByte (BitVec.ofNat 16 n) = BitVec.ofNat 8 (n / 256) := by
  apply BitVec.eq_of_toNat_eq
  simp only [hiByte, BitVec.extractLsb'_toNat, BitVec.toNat_ofNat, Nat.shiftRight_eq_div_pow]
  omega

theorem loByte_ofNat (n : Nat) : loByte (BitVec.ofNat 16 n) = BitVec.ofNat 8 (n % 256) := by
  apply BitVec.eq_of_toNat_eq
  simp only [loByte, BitVec.extractLsb'_toNat, BitVec.toNat_ofNat, Nat.shiftRight_zero]
  omega

/-- A short frame is the one whose CRC bytes and end byte are right. -/
theorem encodeFrame_short (tbl : List Half) {p : List Byte} (hp : p.length ≤ 255) :
    encodeFrame tbl p = shortFrameWith p (crc16 tbl p) 0x03 := by
  rw [encodeFrame, frameHeader, if_pos hp, shortFrameWith]

/-- Settles O19: the two forms of the header, each with its length. -/
theorem frameLayout : Obligations.FrameLayout := by
  refine fun tbl p => ⟨fun hp => ⟨encodeFrame_short tbl hp, encodeFrame_length_short hp⟩,
    fun hp _ => ⟨?_, encodeFrame_length_long hp⟩⟩
  rw [encodeFrame, frameHeader, if_neg (Nat.not_le.2 hp), bytesBe16, hiByte_ofNat, loByte_ofNat]
  rfl

/-! ### A complete short frame in the buffer (R250) -/

/-- A complete short frame stands at offset `k`: its payload, its CRC bytes and its end byte (R150). -/
structure FrameAt (buf : List Byte) (k : Nat) (p : List Byte) (c : Half) (e : Byte) : Prop where
  start : byteAt buf k = 0x02
  length : (byteAt buf (k + 1)).toNat = p.length
  fits : k + (p.length + 5) ≤ buf.length
  payload : slice buf (k + 2) (k + 2 + p.length) = p
  crc : be16 buf (k + 2 + p.length) = c
  last : byteAt buf (k + 2 + p.length + 2) = e

theorem slice_append (a p b : List Byte) : slice (a ++ (p ++ b)) a.length (a.length + p.length) = p := by
  simp [slice, List.take_append]

theorem frameAt_append {p : List Byte} (hp : p.length ≤ 255) (pre g : List Byte) (c : Half) (e : Byte) :
    FrameAt (pre ++ shortFrameWith p c e ++ g) pre.length p c e := by
  have hbuf : pre ++ shortFrameWith p c e ++ g
      = (pre ++ [0x02, BitVec.ofNat 8 p.length]) ++ (p ++ hiByte c :: loByte c :: e :: g) := by
    simp [shortFrameWith, bytesBe16]
  have hhead (i : Nat) : byteAt (pre ++ shortFrameWith p c e ++ g) (pre.length + i)
      = byteAt (0x02 :: BitVec.ofNat 8 p.length :: (p ++ hiByte c :: loByte c :: e :: g)) i := by
    rw [hbuf, List.append_assoc]
    exact byteAt_append_right ..
  have htail (i : Nat) : byteAt (pre ++ shortFrameWith p c e ++ g) (pre.length + 2 + p.length + i)
      = byteAt (hiByte c :: loByte c :: e :: g) i := by
    have h := byteAt_append_right (pre ++ [0x02, BitVec.ofNat 8 p.length] ++ p) (hiByte c :: loByte c :: e :: g) i
    rwa [List.append_assoc, ← hbuf, List.length_append, List.length_append] at h
  have hlen : (pre ++ [0x02, BitVec.ofNat 8 p.length]).length = pre.length + 2 := List.length_append
  constructor
  · exact hhead 0
  · rw [hhead 1]
    exact toNat_ofNat8 (Nat.lt_succ_of_le hp)
  · simp [shortFrameWith, bytesBe16]
  · rw [hbuf, ← hlen]
    exact slice_append ..
  · rw [be16, htail 1]
    exact (congrArg (· ++ _) (htail 0)).trans (hiByte_append_loByte c)
  · exact htail 2

theorem frameAt_encodeFrame (tbl : List Half) {p : List Byte} (hp : p.length ≤ 255) :
    FrameAt (encodeFrame tbl p) 0 p (crc16 tbl p) 0x03 := by
  have h := frameAt_append hp [] [] (crc16 tbl p) 0x03
  rwa [List.nil_append, List.append_nil, ← encodeFrame_short tbl hp] at h

/-! ### The loop at a complete frame (R250, R254 to R256) -/

section
variable {tbl : List Half} {buf : List Byte} {k : Nat} {p : List Byte} {c : Half} {e : Byte} (h : FrameAt buf k p c e)
include h

theorem FrameAt.frameLen_eq : frameLen buf k = p.length + 5 := by
  rw [frameLen, h.length]
  omega

theorem FrameAt.frameLen_fits : k + frameLen buf k ≤ buf.length := h.frameLen_eq ▸ h.fits

theorem FrameAt.endByte : byteAt buf (k + frameLen buf k - 1) = e := by
  rw [h.frameLen_eq, ← h.last]
  exact congrArg (byteAt buf) (by omega)

theorem FrameAt.found (hc : c = crc16 tbl p) (he : e = 0x03) (fuel last : Nat) (out : List (List Byte))
    (ev : List Event) :
    extractLoop tbl buf (fuel + 1) k last out ev
      = extractLoop tbl buf fuel (k + (p.length + 5)) (k + (p.length + 5)) (out ++ [p]) ev := by
  rw [extractLoop_found tbl buf fuel k last out ev h.start h.frameLen_fits (h.endByte.trans he), h.frameLen_eq,
    h.length, h.payload]
  rw [h.length, h.payload, h.crc, hc]

theorem FrameAt.badCrc (hc : c ≠ crc16 tbl p) (he : e = 0x03) (fuel last : Nat) (out : List (List Byte))
    (ev : List Event) :
    extractLoop tbl buf (fuel + 1) k last out ev = extractLoop tbl buf fuel (k + 1) last out (ev ++ [.crcErr k]) := by
  refine extractLoop_badCrc tbl buf fuel k last out ev h.start h.frameLen_fits (h.endByte.trans he) ?_
  rw [h.length, h.payload, h.crc]
  exact hc.symm

theorem FrameAt.badEnd (he : e ≠ 0x03) (fuel last : Nat) (out : List (List Byte)) (ev : List Event) :
    extractLoop tbl buf (fuel + 1) k last out ev = extractLoop tbl buf fuel (k + 1) last out (ev ++ [.termErr k]) :=
  extractLoop_badEnd tbl buf fuel k last out ev h.start h.frameLen_fits (h.endByte ▸ he)

end

/-- Settles O20: the frame is found at offset 0, and the scan ends where the frame ends. -/
theorem extractInvertsEncode : Obligations.ExtractInvertsEncode := by
  intro tbl p hp
  have hlen : (encodeFrame tbl p).length = p.length + 4 + 1 := (encodeFrame_length_short hp).trans (Nat.add_comm ..)
  have hend : (encodeFrame tbl p).length ≤ 0 + (p.length + 5) := by rw [hlen, Nat.zero_add]
  rw [extract, hlen, (frameAt_encodeFrame tbl hp).found rfl rfl, extractLoop_end (h := hend),
    List.drop_of_length_le hend, List.nil_append]

/-! ### The loop before a frame (R257) -/

theorem extract_skipsPrefix (tbl : List Half) {pre : List Byte} (hpre : ∀ b ∈ pre, b ≠ 0x02) (rest : List Byte) :
    extract tbl (pre ++ rest) = extractLoop tbl (pre ++ rest) rest.length pre.length 0 [] [] := by
  have h := extractLoop_skipsPrefix tbl rest pre [] rest.length 0 [] [] hpre
  rw [List.nil_append, List.length_nil, Nat.zero_add, Nat.add_comm, ← List.length_append] at h
  exact h

/-- Settles O23: the scan passes over the whole buffer. -/
theorem bytesWithoutStartAreKeptAndNotFound : Obligations.BytesWithoutStartAreKeptAndNotFound := by
  intro tbl buf hbuf
  have h := extract_skipsPrefix tbl hbuf []
  rwa [List.append_nil] at h

/-! ### What one pass of the loop can do (R250) -/

section
variable {tbl : List Half} {buf : List Byte} {fuel i last : Nat} {out : List (List Byte)} {ev : List Event}

/-- One pass ends the scan, moves on by one byte with or without a report at its offset, or finds a frame. -/
theorem extractLoop_pass {r : ExtractResult} (h : extractLoop tbl buf (fuel + 1) i last out ev = r) :
    (r = ⟨out, ev, buf.drop last⟩ ∨ r = ⟨out, ev, buf.drop i⟩)
    ∨ (i < buf.length ∧ r = extractLoop tbl buf fuel (i + 1) last out ev)
    ∨ (i < buf.length ∧ ∃ e, frameErrorOffset e = some i
        ∧ r = extractLoop tbl buf fuel (i + 1) last out (ev ++ [e]))
    ∨ ∃ p : List Byte, i + (p.length + 5) ≤ buf.length
        ∧ r = extractLoop tbl buf fuel (i + (p.length + 5)) (i + (p.length + 5)) (out ++ [p]) ev := by
  subst h
  rcases le_or_gt buf.length i with hend | hi
  · exact .inl (.inl (extractLoop_end (h := hend) ..))
  rcases ne_or_eq (byteAt buf i) 0x02 with hskip | hstart
  · exact .inr (.inl ⟨hi, extractLoop_skip (h := hi) (h2 := hskip) ..⟩)
  rcases lt_or_ge buf.length (i + 2) with hheader | hheader
  · exact .inl (.inr (extractLoop_shortHeader (h := hi) (h2 := hstart) (h3 := hheader) ..))
  rcases lt_or_ge buf.length (i + frameLen buf i) with hshort | hfits
  · exact .inl (.inr (extractLoop_incomplete (h2 := hstart) (h3 := hheader) (h4 := hshort) ..))
  rcases ne_or_eq (byteAt buf (i + frameLen buf i - 1)) 0x03 with hbad | hlast
  · exact .inr (.inr (.inl ⟨hi, .termErr i, rfl, extractLoop_badEnd (h2 := hstart) (h4 := hfits) (h5 := hbad) ..⟩))
  rcases ne_or_eq (crc16 tbl (slice buf (i + 2) (i + 2 + (byteAt buf (i + 1)).toNat)))
    (be16 buf (i + 2 + (byteAt buf (i + 1)).toNat)) with hbad | hcrc
  · exact .inr (.inr (.inl ⟨hi, .crcErr i, rfl,
      extractLoop_badCrc (h2 := hstart) (h4 := hfits) (h5 := hlast) (h6 := hbad) ..⟩))
  have hlen : (slice buf (i + 2) (i + 2 + (byteAt buf (i + 1)).toNat)).length + 5 = frameLen buf i := by
    simp only [frameLen, slice, List.length_drop, List.length_take] at hfits ⊢
    omega
  refine .inr (.inr (.inr ⟨_, hlen ▸ hfits, ?_⟩))
  rw [hlen, extractLoop_found (h2 := hstart) (h4 := hfits) (h5 := hlast) (h6 := hcrc)]

/-- Events once reported stay, in front of those that follow. -/
theorem extractLoop_ev_prefix : ev <+: (extractLoop tbl buf fuel i last out ev).ev := by
  induction fuel generalizing i last out ev with
  | zero => exact List.prefix_rfl
  | succ fuel ih =>
    generalize hrun : extractLoop tbl buf (fuel + 1) i last out ev = r
    obtain (rfl | rfl) | ⟨-, rfl⟩ | ⟨-, e, -, rfl⟩ | ⟨p, -, rfl⟩ := extractLoop_pass hrun
    · exact List.prefix_rfl
    · exact List.prefix_rfl
    · exact ih
    · exact (List.prefix_append ev [e]).trans ih
    · exact ih

end

/-! ### The invariant of a scan (R250, R504) -/

/-- What holds of a scan at position `i` with the consumed boundary `last`: the events reported so far stand at increasing
offsets before `i`, and the frames found so far fit before `last`. -/
structure ScanInv (buf : List Byte) (i last : Nat) (out : List (List Byte)) (ev : List Event) : Prop where
  last_le : last ≤ i
  pos_le : i ≤ buf.length
  offsets : ∀ e ∈ ev, ∃ k, frameErrorOffset e = some k ∧ k < i
  increasing : (ev.filterMap frameErrorOffset).Pairwise (· < ·)
  bytes : (out.map (fun p => p.length + 5)).sum ≤ last

/-- What holds of the result of a scan (R250, R504). -/
structure ScanResult (buf : List Byte) (r : ExtractResult) : Prop where
  suffix : r.rem <:+ buf
  offsets : ∀ e ∈ r.ev, ∃ k, frameErrorOffset e = some k ∧ k < buf.length
  increasing : (r.ev.filterMap frameErrorOffset).Pairwise (· < ·)
  bytes : (r.out.map (fun p => p.length + 5)).sum + r.rem.length ≤ buf.length

section
variable {buf : List Byte} {i last : Nat} {out : List (List Byte)} {ev : List Event} (h : ScanInv buf i last out ev)
include h

theorem ScanInv.stop {j : Nat} (hlast : last ≤ j) (hj : j ≤ buf.length) : ScanResult buf ⟨out, ev, buf.drop j⟩ where
  suffix := List.drop_suffix ..
  offsets e he := by
    obtain ⟨k, hk, hlt⟩ := h.offsets e he
    exact ⟨k, hk, hlt.trans_le h.pos_le⟩
  increasing := h.increasing
  bytes := by
    rw [List.length_drop, ← Nat.le_sub_iff_add_le (Nat.sub_le ..), Nat.sub_sub_self hj]
    exact h.bytes.trans hlast

/-- The scan may move on to any later position of the buffer. -/
theorem ScanInv.moveTo {j : Nat} (hij : i ≤ j) (hj : j ≤ buf.length) : ScanInv buf j last out ev where
  last_le := h.last_le.trans hij
  pos_le := hj
  offsets e he := by
    obtain ⟨k, hk, hlt⟩ := h.offsets e he
    exact ⟨k, hk, hlt.trans_le hij⟩
  increasing := h.increasing
  bytes := h.bytes

theorem ScanInv.report {e : Event} (he : frameErrorOffset e = some i) (hi : i < buf.length) :
    ScanInv buf (i + 1) last out (ev ++ [e]) where
  last_le := Nat.le_succ_of_le h.last_le
  pos_le := hi
  offsets e' he' := by
    rcases List.mem_append.1 he' with hold | hnew
    · exact (h.moveTo (Nat.le_succ i) hi).offsets e' hold
    · exact ⟨i, (List.mem_singleton.1 hnew) ▸ he, Nat.lt_succ_self i⟩
  increasing := by
    simp only [List.filterMap_append, List.filterMap_cons, he, List.filterMap_nil, List.pairwise_append,
      List.mem_filterMap, List.mem_singleton]
    refine ⟨h.increasing, List.pairwise_singleton .., ?_⟩
    rintro a ⟨e', he', ha⟩ b rfl
    obtain ⟨k, hk, hlt⟩ := h.offsets e' he'
    cases ha.symm.trans hk
    exact hlt
  bytes := h.bytes

theorem ScanInv.found {p : List Byte} (hp : i + (p.length + 5) ≤ buf.length) :
    ScanInv buf (i + (p.length + 5)) (i + (p.length + 5)) (out ++ [p]) ev where
  last_le := Nat.le_refl _
  pos_le := hp
  offsets := (h.moveTo (Nat.le_add_right ..) hp).offsets
  increasing := h.increasing
  bytes := by
    rw [List.map_append, List.sum_append]
    exact Nat.add_le_add (h.bytes.trans h.last_le) (Nat.le_refl _)

end

theorem scanResult_extractLoop (tbl : List Half) {buf : List Byte} (fuel : Nat) {i last : Nat} {out : List (List Byte)}
    {ev : List Event} (h : ScanInv buf i last out ev) : ScanResult buf (extractLoop tbl buf fuel i last out ev) := by
  induction fuel generalizing i last out ev with
  | zero => exact h.stop (Nat.le_refl _) (h.last_le.trans h.pos_le)
  | succ fuel ih =>
    generalize hrun : extractLoop tbl buf (fuel + 1) i last out ev = r
    obtain (rfl | rfl) | ⟨hi, rfl⟩ | ⟨hi, e, he, rfl⟩ | ⟨p, hp, rfl⟩ := extractLoop_pass hrun
    · exact h.stop (Nat.le_refl _) (h.last_le.trans h.pos_le)
    · exact h.stop h.last_le h.pos_le
    · exact ih (h.moveTo (Nat.le_succ i) hi)
    · exact ih (h.report he hi)
    · exact ih (h.found hp)

theorem scanResult_extract (tbl : List Half) (buf : List Byte) : ScanResult buf (extract tbl buf) :=
  scanResult_extractLoop tbl buf.length ⟨Nat.le_refl _, Nat.zero_le _, by simp, .nil, Nat.le_refl _⟩

/-- What a scan leaves in `ACC` (R261). -/
theorem accScan_acc (s : State) :
    s.accScan.acc = if s.params.rxClearThreshold < (extract s.crc.tbl s.acc).rem.length then []
      else (extract s.crc.tbl s.acc).rem := by
  rw [accScan_eq, accTrim_eq]
  exact apply_ite State.acc ..

/-- Settles O24: by the invariant of the scan, and by what a scan leaves in `ACC`. -/
theorem extractKeepsATailAndOrdersItsEvents : Obligations.ExtractKeepsATailAndOrdersItsEvents := by
  refine ⟨fun tbl buf => ?_, fun s => ?_⟩
  · obtain ⟨hsuffix, hoffsets, hincreasing, hbytes⟩ := scanResult_extract tbl buf
    exact ⟨hsuffix, hoffsets, hincreasing, hbytes⟩
  · rw [accScan_acc]
    split
    · exact Nat.zero_le _
    · exact Nat.le_of_not_lt ‹_›

/-! ### Corrupt frames (R255, R256, R269) -/

/-- Where the scan's first stop reports an event and moves on by one byte, that event is the first of the scan. -/
theorem extract_firstReport {tbl : List Half} {pre rest : List Byte} {e : Event} (hpre : ∀ b ∈ pre, b ≠ 0x02)
    (hrest : rest ≠ [])
    (hpass : ∀ (fuel last : Nat) (out : List (List Byte)) (ev : List Event),
      extractLoop tbl (pre ++ rest) (fuel + 1) pre.length last out ev
        = extractLoop tbl (pre ++ rest) fuel (pre.length + 1) last out (ev ++ [e])) :
    (extract tbl (pre ++ rest)).ev.head? = some e
    ∧ extract tbl (pre ++ rest)
      = extractLoop tbl (pre ++ rest) ((pre ++ rest).length - pre.length - 1) (pre.length + 1) 0 [] [e] := by
  have hfuel : rest.length = (pre ++ rest).length - pre.length - 1 + 1 := by
    have := List.length_pos_iff.2 hrest
    rw [List.length_append]
    omega
  have hrun := extract_skipsPrefix tbl hpre rest
  rw [hfuel, hpass, List.nil_append] at hrun
  refine ⟨?_, hrun⟩
  obtain ⟨es, hes⟩ : [e] <+: (extract tbl (pre ++ rest)).ev := hrun ▸ extractLoop_ev_prefix
  rw [← hes]
  rfl

/-- Settles O22: the pass at the frame, and the first report of the scan when nothing before it starts a frame. -/
theorem corruptFramesAreReportedAndSkipped : Obligations.CorruptFramesAreReportedAndSkipped := by
  refine ⟨fun tbl pre p g c hp hc => ?_, fun tbl pre p g c e hp he => ?_⟩
  · have hpass := (frameAt_append hp pre g c 0x03).badCrc (tbl := tbl) hc rfl
    refine ⟨hpass, fun hpre => ?_⟩
    rw [List.append_assoc] at hpass ⊢
    exact extract_firstReport hpre (List.cons_ne_nil _ _) hpass
  · have hpass := (frameAt_append hp pre g c e).badEnd (tbl := tbl) he
    refine ⟨hpass, fun hpre => ?_⟩
    rw [List.append_assoc] at hpass ⊢
    exact extract_firstReport hpre (List.cons_ne_nil _ _) hpass

/-! ### A frame in two reads (R252, R267) -/

theorem byteAt_append_left {a : List Byte} (b : List Byte) {i : Nat} (h : i < a.length) :
    byteAt (a ++ b) i = byteAt a i :=
  List.getD_append a b 0 i h

/-- A non-empty proper front of a short frame is kept whole, with no report (R251, R252). -/
theorem extract_front {tbl : List Half} {p u v : List Byte} {c : Half} {e : Byte} (h : FrameAt (u ++ v) 0 p c e)
    (hu : u ≠ []) (hlt : u.length < p.length + 5) : extract tbl u = ⟨[], [], u⟩ := by
  have hpos := List.length_pos_iff.2 hu
  have hstart : byteAt u 0 = 0x02 := (byteAt_append_left v hpos).symm.trans h.start
  rw [extract, ← Nat.sub_add_cancel hpos]
  rcases Nat.lt_or_ge u.length 2 with hone | htwo
  · exact extractLoop_shortHeader tbl u _ 0 0 [] [] hpos hstart hone
  · refine extractLoop_incomplete tbl u _ 0 0 [] [] hstart htwo ?_
    have hlen := h.length
    rw [byteAt_append_left v htwo] at hlen
    rw [frameLen, hlen]
    omega

theorem valid_accRoom {p : Config.Params} (h : p.Valid) : 259 ≤ p.rxClearThreshold ∧ 260 ≤ p.rxCap := by
  simp [Config.Params.Valid, Config.Params.valid] at h
  omega

/-- The accumulator procedures on the two reads: both fit, and the first leaves nothing to clear. -/
theorem scan_twoReads {tbl : List Half} {p u v : List Byte} (hu : extract tbl u = ⟨[], [], u⟩)
    (huv : extract tbl (u ++ v) = ⟨[p], [], []⟩) (hlen : u.length ≤ 259) (hlen' : (u ++ v).length ≤ 260) {s : State}
    (hvalid : s.params.Valid) (htbl : s.crc.tbl = tbl) (hacc : s.acc = []) :
    (s.accPush u).scanOut = []
    ∧ ((s.accPush u).accScan.accPush v).scanOut = [p]
    ∧ ((s.accPush u).accScan.accPush v).accScan.acc = [] := by
  obtain ⟨hthreshold, hcap⟩ := valid_accRoom hvalid
  have hpush : s.accPush u = { s with acc := u } := by
    have hroom : s.acc.length + u.length ≤ s.params.rxCap := by
      rw [hacc, List.length_nil]
      omega
    rw [accPush_fits hroom, hacc, List.nil_append]
  have hidle := idles_accScan { s with acc := u }
  have hkept : ({ s with acc := u } : State).accScan.acc = u := by
    rw [accScan_acc]
    simp only [htbl, hu]
    exact if_neg (by omega)
  rw [hpush]
  generalize ({ s with acc := u } : State).accScan = t at hidle hkept
  have hpush' : t.accPush v = { t with acc := u ++ v } := by
    have hroom : t.acc.length + v.length ≤ t.params.rxCap := by
      rw [hkept, hidle.params, ← List.length_append]
      exact hlen'.trans hcap
    rw [accPush_fits hroom, hkept]
  have htbl' : t.crc.tbl = tbl := (congrArg CrcUnit.tbl hidle.crc).trans htbl
  rw [hpush', accScan_acc]
  simp [State.scanOut, htbl, htbl', hu, huv]

/-- Settles O21: the first read is a front of the frame, and with the second the frame stands alone in the buffer. -/
theorem fragmentedFrameIsFoundOnce : Obligations.FragmentedFrameIsFoundOnce := by
  intro tbl p u v hp huv hu hv
  have hframe := huv ▸ frameAt_encodeFrame tbl hp
  have hfound := huv ▸ extractInvertsEncode tbl p hp
  have hlen : (u ++ v).length = 5 + p.length := huv ▸ encodeFrame_length_short hp
  have hpos := List.length_pos_iff.2 hv
  have hsum := List.length_append (as := u) (bs := v)
  have hfront := extract_front (tbl := tbl) hframe hu (by omega)
  exact ⟨hfront, hfound, fun s => scan_twoReads hfront hfound (by omega) (by omega)⟩

/-! ### TX_FRAME (R260) -/

/-- Settles O25: the bytes of `DIN` are taken in one step; the other is one write, its report and the retirement. -/
theorem txFrameTakesThenWrites : Obligations.TxFrameTakesThenWrites := by
  refine fun n s hready => ⟨fun hnone hcap hlen => ?_, fun p hp hidle hcancel => ?_⟩
  · rw [exec, execTxFrame, whenTable_ready hready]
    simp only [hnone]
    rw [withDin_take hcap hlen]
    rfl
  · have hexec : exec (.txFrame n) s = .next (s.txWrite p) := by
      rw [exec, execTxFrame, whenTable_ready hready]
      simp only [hp]
      rw [whenLockFree_free hidle hcancel]
    rw [hexec, State.txWrite, sendFrame_eq]
    refine ⟨fun hok => ?_, fun k herr => ?_⟩
    · rw [writeOutcome_ok hok, hok]
      rfl
    · rw [writeOutcome_err herr, herr]
      rfl

/-! ### SYNC_APPEND, SYNC_CLEAR and SYNC_EXTRACT (R262 to R264) -/

theorem whenHostOwnsAcc_owned {s : State} (h : s.poll.state = .stopped) (act : State → State) :
    s.whenHostOwnsAcc act = act s := if_pos h

theorem whenHostOwnsAcc_refused {s : State} (h : s.poll.state ≠ .stopped) (act : State → State) :
    s.whenHostOwnsAcc act = s.raise (.ownErr s.cmdWord) := if_neg h

/-- Settles O26: the ownership test decides, and then the room in `ACC`. -/
theorem syncAppendAndSyncClear : Obligations.SyncAppendAndSyncClear := by
  refine ⟨fun n s hcap hlen => ?_, fun s => ⟨fun howned => ?_, fun hrefused => ?_⟩⟩
  · have htaken : (s.din.take n).length = n := List.length_take_of_le hlen
    rw [exec, execSyncAppend, withDin_take hcap hlen]
    refine ⟨fun hrefused => ?_, fun howned hroom => ?_, fun howned hacc hover => ?_⟩
    · rw [whenHostOwnsAcc_refused (s := s.dinDrop n) hrefused]
      rfl
    · rw [whenHostOwnsAcc_owned (s := s.dinDrop n) howned,
        accPush_fits (s := s.dinDrop n) (htaken.symm ▸ hroom)]
      rfl
    · have hfull : s.params.rxCap - s.acc.length < n := by omega
      have hdropped : n - (s.params.rxCap - s.acc.length) = s.acc.length + n - s.params.rxCap := by omega
      rw [whenHostOwnsAcc_owned (s := s.dinDrop n) howned, accPush_overflows (s := s.dinDrop n) (htaken.symm ▸ hfull),
        State.dinDrop_params, State.dinDrop_acc, htaken, hdropped, List.take_take, Nat.min_eq_left hfull.le]
      rfl
  · rw [exec, execSyncClear, whenHostOwnsAcc_owned howned]
    rfl
  · rw [exec, execSyncClear, whenHostOwnsAcc_refused hrefused]
    rfl

/-- Settles O27: the scan's events, then the threshold clear, then the records of the payloads. -/
theorem syncExtractEmitsEventsPayloadsAndCount : Obligations.SyncExtractEmitsEventsPayloadsAndCount := by
  refine fun s hready => ⟨fun hrefused => ?_, fun howned => ?_⟩
  · rw [exec, execSyncExtract, whenTable_ready hready, whenHostOwnsAcc_refused hrefused]
    rfl
  · intro r clears
    rw [exec, execSyncExtract, whenTable_ready hready, whenHostOwnsAcc_owned howned, accScan_eq,
      bump_frameErrors _ (extract_frameErrors _ _), accTrim_eq]
    by_cases hclears : clears
    · rw [if_pos hclears]
      simp [State.retire, State.emitOutAll, extractRecords, hclears, State.scanOut, r]
    · rw [if_neg hclears]
      simp [State.retire, State.emitOutAll, extractRecords, hclears, State.scanOut, r]

end Sys2Proof.Machine
end

section
/-! PROOF. The telemetry decoder and DECODE_GV (42_telemetry.md). First the echo strip and one equation for each length gate
of `decode_gv`; then a field read where its packed bytes stand, and from it the record of a packed body. -/

namespace Sys2Proof.Machine

/-! ### The echo strip and the length gates (R301, R302) -/

theorem stripEcho_echo (q : List Byte) : stripEcho (0x04 :: q) = q := rfl

theorem stripEcho_noEcho {p : List Byte} (h : p.head? ≠ some 0x04) : stripEcho p = p := by
  cases p with
  | nil => rfl
  | cons b q => exact if_neg fun hb => h (congrArg some hb)

theorem decodeGv_short {p : List Byte} (h : (stripEcho p).length < 46) : decodeGv p = .null p .short := if_pos h

theorem decodeGv_unpack {p : List Byte} (h : 46 ≤ (stripEcho p).length) (h' : (stripEcho p).length < 52) :
    decodeGv p = .null p .unpack :=
  (if_neg (Nat.not_lt.2 h)).trans (if_pos h')

theorem decodeGv_sample {p : List Byte} (h : 52 ≤ (stripEcho p).length) :
    decodeGv p = .sample (telemetryOf (stripEcho p)) :=
  (if_neg (by omega)).trans (if_neg (Nat.not_lt.2 h))

/-- DECODE_GV with its bytes in `DIN` (R310). -/
theorem exec_decodeGv {s : State} {n : Nat} (h : n ≤ s.params.dinDepth) (h' : n ≤ s.din.length) :
    exec (.decodeGv n) s = .next (((s.dinDrop n).emitOut (decodeGv (s.din.take n)).record).retire) := by
  rw [exec, execDecodeGv, withDin_take h h']

/-- Settles O28: each gate is one branch of `decode_gv`, and the record is its answer's. -/
theorem decodeGvGatesAndCommand : Obligations.DecodeGvGatesAndCommand := by
  refine ⟨fun p q hq => ?_, fun n s hcap hlen => ?_⟩
  · have hstrip : stripEcho p = q := by
      rcases hq with rfl | ⟨hhead, rfl⟩
      · exact stripEcho_echo q
      · exact stripEcho_noEcho hhead
    subst hstrip
    exact ⟨decodeGv_short, decodeGv_unpack, fun h => ⟨_, decodeGv_sample h⟩⟩
  · exact ⟨_, exec_decodeGv hcap hlen, fun _ h => congrArg GvResult.record h, fun _ _ h => congrArg GvResult.record h⟩

/-! ### A packed field read back (20_memory.md R103, R104) -/

/-- Four big-endian bytes read back as the value they were cut from. -/
theorem be32_bytesBe32_append (v : Word) (rest : List Byte) : be32 (bytesBe32 v ++ rest) 0 = v :=
  calc
    be32 (bytesBe32 v ++ rest) 0
    _ = (v.extractLsb' 24 8 ++ v.extractLsb' 16 8) ++ (v.extractLsb' 8 8 ++ v.extractLsb' 0 8) := rfl
    _ = v.extractLsb' 16 16 ++ v.extractLsb' 0 16 :=
      congrArg₂ (· ++ ·) (BitVec.extractLsb'_append_extractLsb'_eq_extractLsb' (show 24 = 16 + 8 from rfl))
        (BitVec.extractLsb'_append_extractLsb'_eq_extractLsb' (show 8 = 0 + 8 from rfl))
    _ = v.extractLsb' 0 32 := BitVec.extractLsb'_append_extractLsb'_eq_extractLsb' (show 16 = 0 + 16 from rfl)
    _ = v := BitVec.extractLsb'_eq_self

theorem fieldI16_packI16_append {v : Int} (hv : IsI16 v) (rest : List Byte) : fieldI16 (packI16 v ++ rest) 0 = v := by
  have hread : be16 (packI16 v ++ rest) 0 = BitVec.ofInt 16 v := hiByte_append_loByte _
  rw [fieldI16, hread]
  exact BitVec.toInt_ofInt_eq_self (by decide) hv.1 (Int.lt_add_one_of_le hv.2)

theorem fieldI32_packI32_append {v : Int} (hv : IsI32 v) (rest : List Byte) : fieldI32 (packI32 v ++ rest) 0 = v := by
  rw [fieldI32, packI32, be32_bytesBe32_append]
  exact BitVec.toInt_ofInt_eq_self (by decide) hv.1 (Int.lt_add_one_of_le hv.2)

theorem be16_append_right (a b : List Byte) (i : Nat) : be16 (a ++ b) (a.length + i) = be16 b i := by
  simp only [be16, Nat.add_assoc, byteAt_append_right]

theorem be32_append_right (a b : List Byte) (i : Nat) : be32 (a ++ b) (a.length + i) = be32 b i := by
  simp only [be32, Nat.add_assoc, be16_append_right]

theorem fieldI16_append_right {a : List Byte} (b : List Byte) {o : Nat} (h : a.length ≤ o) :
    fieldI16 (a ++ b) o = fieldI16 b (o - a.length) := by
  rw [fieldI16, ← Nat.add_sub_cancel' h, be16_append_right, Nat.add_sub_cancel_left]
  rfl

theorem fieldI32_append_right {a : List Byte} (b : List Byte) {o : Nat} (h : a.length ≤ o) :
    fieldI32 (a ++ b) o = fieldI32 b (o - a.length) := by
  rw [fieldI32, ← Nat.add_sub_cancel' h, be32_append_right, Nat.add_sub_cancel_left]
  rfl

/-! ### A packed body (R303, R306) -/

theorem packI16_length (v : Int) : (packI16 v).length = 2 := by simp [packI16, bytesBe16]

theorem packI32_length (v : Int) : (packI32 v).length = 4 := by simp [packI32, bytesBe32]

/-- Each field's offset is the length of the packed fields before it, so the read falls on the field's own bytes. -/
theorem telemetryOf_packTelemetry {f : Telemetry} (h : f.InRange) (trailing : List Byte) :
    telemetryOf (packTelemetry f ++ trailing) = f := by
  unfold Telemetry.InRange at h
  simp only [telemetryOf, packTelemetry, List.append_assoc, fieldI16_append_right, fieldI32_append_right, packI16_length,
    packI32_length, Nat.reduceLeDiff, Nat.reduceSub, Nat.sub_self, Nat.le_refl]
  simp [fieldI16_packI16_append, fieldI32_packI32_append, IsI16, IsI32, h]

theorem packTelemetry_length (f : Telemetry) : (packTelemetry f).length = 52 := by
  simp [packTelemetry, packI16_length, packI32_length]

/-- Any payload that strips to a packed body, with or without trailing bytes, decodes to its record. -/
theorem decodeGv_packTelemetry {f : Telemetry} (h : f.InRange) {p trailing : List Byte}
    (hp : stripEcho p = packTelemetry f ++ trailing) : decodeGv p = .sample f := by
  have hlen : 52 ≤ (stripEcho p).length := by
    rw [hp, List.length_append, packTelemetry_length]
    exact Nat.le_add_right ..
  rw [decodeGv_sample hlen, hp, telemetryOf_packTelemetry h]

/-- Settles O29: the strip leaves the packed body, with the echo byte or without it. -/
theorem packedTelemetryDecodes : Obligations.PackedTelemetryDecodes := by
  refine fun f trailing h => ⟨decodeGv_packTelemetry h (stripEcho_echo _), fun hhead => ?_⟩
  have hnonempty : packTelemetry f ≠ [] := List.ne_nil_of_length_eq_add_one (packTelemetry_length f)
  rw [← List.head?_append_of_ne_nil _ hnonempty] at hhead
  exact decodeGv_packTelemetry h (stripEcho_noEcho hhead)

end Sys2Proof.Machine
end

section
/-! PROOF. The commands of the sequencer and the steps of the `SEQ` agent, one at a time (43_duty_sequencer.md). First each
command with its holds passed; then when a `SEQ` step is enabled and which step it is, one rule for each state of the session;
then each step's effect for a write that is ok and for one that fails. -/

namespace Sys2Proof.Machine

/-! ### The commands (R345, R350, R381, R390) -/

theorem dutyClamp_saturates (x : Int) : clamp x (-Config.dutyClamp) Config.dutyClamp = saturate 100 x :=
  clamp_saturates 100 x

/-- SET_DUTY with its holds passed. -/
theorem exec_setDuty_free {s : State} (x : Int) (ht : s.crc.tblReady = true) (hi : s.seq.state = .idle)
    (hc : s.seq.cancel = false) :
    exec (.setDuty x) s = .next ((s.sendDuty (saturate 100 x)).reportWrite s.writeOutcome .cmd).retire := by
  rw [exec, execSetDuty, whenTable_ready ht, whenLockFree_free hi hc, State.setDutyWrite, dutyClamp_saturates]

/-- Settles O30: one duty frame, its report and the retirement. -/
theorem setDutyWritesTheClampedDuty : Obligations.SetDutyWritesTheClampedDuty := by
  intro x s ht hi hc d f
  rw [exec_setDuty_free x ht hi hc, sendDuty_eq]
  refine ⟨fun hok => ?_, fun k herr => ?_⟩
  · rw [writeOutcome_ok hok, hok]
    rfl
  · rw [writeOutcome_err herr, herr]
    rfl

/-! A session's start with the poller left alone, and with the pause of R352. -/

section
variable {s : State} (k : SessionKind) (x : Int) (h : Nat)

theorem startSession_leaves (hrun : ¬ s.pausesPoller) :
    s.startSession k = { s with seq := { s.seq with sessionKind := k } } :=
  autoPause_leaves (s := { s with seq := { s.seq with sessionKind := k } }) hrun

theorem startSession_pauses (hrun : s.pausesPoller) :
    s.startSession k = { s with
      seq := { s.seq with sessionKind := k, autoPaused := true }
      poll := { s.poll with state := .paused, phase := .tick } } :=
  autoPause_pauses (s := { s with seq := { s.seq with sessionKind := k } }) hrun

theorem startRamp_leaves (hrun : ¬ s.pausesPoller) :
    s.startRamp k x h = { s with seq := { s.seq with
      state := .rampingUp, target := BitVec.ofInt 8 (saturate s.params.maxDuty x), hold := BitVec.ofNat 16 h,
      rampK := 1, wait := 0, sessionKind := k } } := by
  unfold State.pausesPoller at hrun
  simp only [startRamp_eq, if_neg hrun]

theorem startRamp_pauses (hrun : s.pausesPoller) :
    s.startRamp k x h = { s with
      seq := { s.seq with
        state := .rampingUp, target := BitVec.ofInt 8 (saturate s.params.maxDuty x), hold := BitVec.ofNat 16 h,
        rampK := 1, wait := 0, sessionKind := k, autoPaused := true }
      poll := { s.poll with state := .paused, phase := .tick } } := by
  unfold State.pausesPoller at hrun
  simp only [startRamp_eq, if_pos hrun]

end

/-- Settles O31: the start of a ramp session and the retirement. -/
theorem rampAndHoldStartsASession : Obligations.RampAndHoldStartsASession := by
  intro x h s ht hi hc
  have hexec : exec (.rampAndHold x h) s = .next (s.startRamp .ramp x h).retire := by
    rw [exec, execRampAndHold, whenTable_ready ht, whenLockFree_free hi hc]
  rw [hexec]
  exact ⟨fun hrun => by rw [startRamp_leaves _ _ _ hrun]; rfl, fun hrun => by rw [startRamp_pauses _ _ _ hrun]; rfl⟩

/-- Settles O32: an accepted TRIGGER takes the gate and starts a ramp session; a rejected one raises its event. -/
theorem triggerIsAcceptedOrRejectedAtOnce : Obligations.TriggerIsAcceptedOrRejectedAtOnce := by
  intro x h s ht
  have haccept (hg : s.gate.state = .idle) (hi : s.seq.state = .idle) (hc : s.seq.cancel = false) :
      exec (.trigger x h) s = .next (s.takeGate.startRamp .gated x h).retire := by
    rw [exec, execTrigger, whenTable_ready ht, if_pos ⟨hg, (lockFree_iff s).2 ⟨hi, hc⟩⟩]
  refine ⟨fun hg hi hc hrun => ?_, fun hg hi hc hrun => ?_, fun hbusy => ?_⟩
  · rw [haccept hg hi hc, startRamp_leaves (s := s.takeGate) _ _ _ hrun]
    rfl
  · rw [haccept hg hi hc, startRamp_pauses (s := s.takeGate) _ _ _ hrun]
    rfl
  · have hno : ¬ (s.gate.state = .idle ∧ s.lockFree = true) := by
      rw [lockFree_iff]
      rintro ⟨hg, hi, hc⟩
      simp [hg, hi, hc] at hbusy
    rw [exec, execTrigger, whenTable_ready ht, if_neg hno]
    rfl

/-- Settles O33: the start of a HARD session, the stop procedure entered, and the retirement. -/
theorem hardStopEntersTheStopProcedure : Obligations.HardStopEntersTheStopProcedure := by
  intro s ht hi hc
  have hexec : exec .hardStop s = .next ((s.startSession .hard).enterStopping 0).retire := by
    rw [exec, execHardStop, whenTable_ready ht, whenLockFree_free hi hc]
  rw [hexec]
  exact ⟨fun hrun => by rw [startSession_leaves _ hrun]; rfl, fun hrun => by rw [startSession_pauses _ hrun]; rfl⟩

/-! ### Which step is enabled (R353 to R357, R370 to R375) -/

theorem seqMove_emergency {s : State} (hi : s.seq.state = .idle) (hc : s.seq.cancel = true) :
    s.seqMove = some s.emergencyStart := by
  simp only [State.seqMove, hi, hc, if_true]

/-- R357: a cancelled ramp or hold stops, whatever its wait. -/
theorem seqMove_cancelled {s : State}
    (hs : s.seq.state = .rampingUp ∨ s.seq.state = .holding ∨ s.seq.state = .rampingDown) (hc : s.seq.cancel = true) :
    s.seqMove = some (s.enterStopping 0) := by
  rcases hs with hs | hs | hs <;> simp only [State.seqMove, hs, hc, if_true]

section
variable {s : State} (hw : s.seq.wait = 0)
include hw

theorem seqMove_rampUp (ht : s.crc.tblReady = true) (hs : s.seq.state = .rampingUp) (hc : s.seq.cancel = false) :
    s.seqMove = some s.rampUpStep := by
  simp [State.seqMove, State.seqUsesChannel, hs, hc, hw, ht, elapsed]

theorem seqMove_endHold (hs : s.seq.state = .holding) (hc : s.seq.cancel = false) : s.seqMove = some s.endHold := by
  simp [State.seqMove, hs, hc, hw, elapsed]

theorem seqMove_rampDown (ht : s.crc.tblReady = true) (hs : s.seq.state = .rampingDown) (hc : s.seq.cancel = false) :
    s.seqMove = some s.rampDownStep := by
  simp [State.seqMove, State.seqUsesChannel, hs, hc, hw, ht, elapsed]

/-- A stop step that sends a frame needs the table; the flush does not. -/
theorem seqMove_stop (hs : s.seq.state = .stopping) (ht : s.seq.stopPhase = .flush ∨ s.crc.tblReady = true) :
    s.seqMove = some s.stopStep := by
  rcases ht with hp | ht
  · simp [State.seqMove, State.seqUsesChannel, hs, hw, hp, elapsed]
  · cases hp : s.seq.stopPhase <;> simp [State.seqMove, State.seqUsesChannel, hs, hw, ht, hp, elapsed]

end

/-- A session that is not cancelled, or stops, has no step before its wait is over. -/
theorem seqMove_waits {s : State} (hs : s.seq.state ≠ .idle) (hc : s.seq.cancel = false ∨ s.seq.state = .stopping)
    (hw : s.seq.wait ≠ 0) : s.seqMove = none := by
  refine Option.eq_none_iff_forall_ne_some.2 fun t h => ?_
  rcases seqMove_cases h with ⟨hi, -⟩ | ⟨hst, hcancel, -⟩ | ⟨-, -, h0, -⟩ | ⟨-, -, h0, -⟩ | ⟨-, -, h0, -⟩ | ⟨-, h0, -⟩
  · exact hs hi
  · rcases hc with hc | hc
    · exact nomatch hc.symm.trans hcancel
    · simp [hc] at hst
  all_goals exact hw h0

/-- A step that sends a frame waits for the table (R210). -/
theorem seqMove_awaitsTable {s : State} (ht : s.crc.tblReady = false)
    (hs : (s.seq.state = .rampingUp ∨ s.seq.state = .rampingDown) ∧ s.seq.cancel = false
      ∨ s.seq.state = .stopping ∧ s.seq.stopPhase ≠ .flush) : s.seqMove = none := by
  rcases hs with ⟨hs | hs, hc⟩ | ⟨hs, hp⟩
  · simp [State.seqMove, State.seqUsesChannel, hs, hc, ht]
  · simp [State.seqMove, State.seqUsesChannel, hs, hc, ht]
  · have hnone : s.seqUsesChannel = false := by
      simp only [State.seqUsesChannel, hs]
      split
      · exact absurd ‹_› hp
      all_goals rw [ht, Bool.and_false]
    simp [State.seqMove, hs, hnone]

/-- Settles O34: the command and the pin set `CANCEL` and nothing else; `SEQ` then starts an emergency session from `IDLE`, or
stops the session. -/
theorem estopSetsCancelAndThePinIsNeverBlocked : Obligations.EstopSetsCancelAndThePinIsNeverBlocked := by
  refine ⟨fun s => rfl, fun s d ts hturn => ?_, fun s hi hc hrun => ?_, fun s hi hc hrun => ?_,
    fun s hs hc => seqMove_cancelled hs hc⟩
  · rw [step_scheduled hturn]
    rfl
  · rw [seqMove_emergency hi hc, State.emergencyStart, startSession_leaves _ hrun]
    rfl
  · rw [seqMove_emergency hi hc, State.emergencyStart, startSession_pauses _ hrun]
    rfl

/-! ### The hold, and the gate's release (R355, R392) -/

theorem endHold_stops {s : State} (h : s.params.stopMode = .immediate ∨ s.targetMag < 2) :
    s.endHold = s.enterStopping 0 := by
  refine if_neg ?_
  rintro ⟨hmode, hmag⟩
  rcases h with h | h
  · exact nomatch h.symm.trans hmode
  · omega

theorem endHold_rampsDown {s : State} (hmode : s.params.stopMode = .rampDown) (hmag : 2 ≤ s.targetMag) :
    s.endHold = { s with seq := { s.seq with
      state := .rampingDown
      rampK := BitVec.ofNat 7 (s.targetMag - 1)
      wait := BitVec.ofNat 32 s.params.stepDelay } } :=
  if_pos ⟨hmode, hmag⟩

/-- Settles O37: the hold's one step is its end. -/
theorem holdEndsInTheStopProcedure : Obligations.HoldEndsInTheStopProcedure := by
  refine fun s hs hc => ⟨fun hw hstop => ?_, seqMove_waits (by simp [hs]) (.inl hc)⟩
  rw [seqMove_endHold hw hs hc, endHold_stops hstop]
  rfl

/-- Settles O41: the release is one test of the gate and its wait. -/
theorem cooldownReleaseWaitsForTheWindow : Obligations.CooldownReleaseWaitsForTheWindow := by
  refine fun s => ⟨fun hg hw => ?_, fun hno => ?_⟩
  · rw [runMove, State.gateReleaseMove, if_pos ⟨hg, beq_iff_eq.2 hw⟩]
    rfl
  · rw [runMove, State.gateReleaseMove, if_neg]
    · rfl
    · rintro ⟨hg, hw⟩
      exact hno.elim (· hg) (· (eq_of_beq hw))

/-! ### A step of a ramp (R353, R356, R358) -/

section
variable {s : State} (hok : s.draw.write = .ok)
include hok

/-- A duty frame that is written (R343, R265). -/
theorem sendDuty_ok (v : Int) :
    s.sendDuty v = { s with
      seq := { s.seq with duty := BitVec.ofInt 8 v, ctrlMode := .duty }
      wire := s.wire ++ [.write (s.dutyFrame v) .ok]
      chan := { s.chan with tx := s.chan.tx ++ s.dutyFrame v }
      counters := { s.counters with txFrame := s.counters.txFrame + 1 } } := by
  rw [sendDuty_eq, writeOutcome_ok hok, hok]
  rfl

theorem rampUpStep_ok : s.rampUpStep = (s.sendDuty s.rampUpDuty).rampUpNext := by
  rw [State.rampUpStep, writeOutcome_ok hok]

theorem rampDownStep_ok : s.rampDownStep = (s.sendDuty s.rampDownDuty).rampDownNext := by
  rw [State.rampDownStep, writeOutcome_ok hok]

/-- A frame on the way to the target. -/
theorem rampUpStep_climbs (hk : s.seq.rampK.toNat ≤ s.targetMag) :
    s.rampUpStep = { s with
      seq := { s.seq with
        duty := BitVec.ofInt 8 (s.targetPct.sign * s.seq.rampK.toNat), ctrlMode := .duty,
        rampK := s.seq.rampK + 1, wait := BitVec.ofNat 32 s.params.stepDelay }
      wire := s.wire ++ [.write (s.dutyFrame (s.targetPct.sign * s.seq.rampK.toNat)) .ok]
      chan.tx := s.chan.tx ++ s.dutyFrame (s.targetPct.sign * s.seq.rampK.toNat)
      counters.txFrame := s.counters.txFrame + 1 } := by
  rw [rampUpStep_ok hok, show s.rampUpDuty = s.targetPct.sign * s.seq.rampK.toNat from if_pos hk, sendDuty_ok hok]
  exact if_pos hk

/-- The frame of the target, and the hold. -/
theorem rampUpStep_arrives (hk : s.targetMag < s.seq.rampK.toNat) :
    s.rampUpStep = { s with
      seq := { s.seq with
        duty := BitVec.ofInt 8 s.targetPct, ctrlMode := .duty, state := .holding, wait := s.seq.hold.setWidth 32 }
      wire := s.wire ++ [.write (s.dutyFrame s.targetPct) .ok]
      chan.tx := s.chan.tx ++ s.dutyFrame s.targetPct
      counters.txFrame := s.counters.txFrame + 1 } := by
  rw [rampUpStep_ok hok, show s.rampUpDuty = s.targetPct from if_neg (Nat.not_le.2 hk), sendDuty_ok hok]
  exact if_neg (Nat.not_le.2 hk)

/-- A frame on the way down, with another one to follow. -/
theorem rampDownStep_descends (hk : 1 < s.seq.rampK.toNat) :
    s.rampDownStep = { s with
      seq := { s.seq with
        duty := BitVec.ofInt 8 s.rampDownDuty, ctrlMode := .duty,
        rampK := s.seq.rampK - 1, wait := BitVec.ofNat 32 s.params.stepDelay }
      wire := s.wire ++ [.write (s.dutyFrame s.rampDownDuty) .ok]
      chan.tx := s.chan.tx ++ s.dutyFrame s.rampDownDuty
      counters.txFrame := s.counters.txFrame + 1 } := by
  rw [rampDownStep_ok hok, sendDuty_ok hok]
  exact if_pos hk

/-- The last frame on the way down, and the stop procedure. -/
theorem rampDownStep_stops (hk : s.seq.rampK.toNat ≤ 1) :
    s.rampDownStep = { s with
      seq := { s.seq with
        duty := BitVec.ofInt 8 s.rampDownDuty, ctrlMode := .duty,
        state := .stopping, stopPhase := .burst, stopCnt := 0, wait := BitVec.ofNat 32 s.params.stepDelay }
      wire := s.wire ++ [.write (s.dutyFrame s.rampDownDuty) .ok]
      chan.tx := s.chan.tx ++ s.dutyFrame s.rampDownDuty
      counters.txFrame := s.counters.txFrame + 1 } := by
  rw [rampDownStep_ok hok, sendDuty_ok hok]
  exact if_neg (Nat.not_lt.2 hk)

end

section
variable {s : State} {k : Nat} (herr : s.draw.write = .err k)
include herr

theorem rampUpStep_err : s.rampUpStep = (s.sendDuty s.rampUpDuty).abortSession := by
  rw [State.rampUpStep, writeOutcome_err herr]

theorem rampDownStep_err : s.rampDownStep = (s.sendDuty s.rampDownDuty).abortSession := by
  rw [State.rampDownStep, writeOutcome_err herr]

end

/-- Settles O38: in either ramp a failed frame ends in `abort_session()`. -/
theorem rampWriteErrorAbortsTheSession : Obligations.RampWriteErrorAbortsTheSession := by
  intro s k v ht hc hw herr hramp
  have habort : s.seqMove = some (s.sendDuty v).abortSession := by
    rcases hramp with ⟨hs, rfl⟩ | ⟨hs, rfl⟩
    · rw [seqMove_rampUp hw ht hs hc, rampUpStep_err herr]
    · rw [seqMove_rampDown hw ht hs hc, rampDownStep_err herr]
  rw [habort, abortSession_eq, sendDuty_eq, writeOutcome_err herr, herr]
  rfl

/-! ### A step of the stop procedure (R371 to R376) -/

section
variable {s : State} (hs : s.seq.state = .stopping) (hw : s.seq.wait = 0)
include hs hw

theorem seqMove_flush (hp : s.seq.stopPhase = .flush) : s.seqMove = some s.flushStep := by
  rw [seqMove_stop hw hs (.inl hp), State.stopStep, hp]

variable (ht : s.crc.tblReady = true)
include ht

theorem seqMove_burst (hp : s.seq.stopPhase = .burst) : s.seqMove = some s.burstStep := by
  rw [seqMove_stop hw hs (.inr ht), State.stopStep, hp]

theorem seqMove_current (hp : s.seq.stopPhase = .current) : s.seqMove = some s.currentStep := by
  rw [seqMove_stop hw hs (.inr ht), State.stopStep, hp]

theorem seqMove_sustain (hp : s.seq.stopPhase = .sustain) : s.seqMove = some s.sustainStep := by
  rw [seqMove_stop hw hs (.inr ht), State.stopStep, hp]

theorem seqMove_reconfirm (hp : s.seq.stopPhase = .reconfirm) : s.seqMove = some s.reconfirmStep := by
  rw [seqMove_stop hw hs (.inr ht), State.stopStep, hp]

end

/-- Settles O60: each of the three steps is a frame, its report, and the count, phase and wait that follow. -/
theorem stopStepsSendReportAndWaitTheirGap : Obligations.StopStepsSendReportAndWaitTheirGap := by
  refine ⟨fun s hs hw ht => ?_, fun s hs => ⟨seqMove_waits (by simp [hs]) (.inr hs), fun hp ht =>
    seqMove_awaitsTable ht (.inr ⟨hs, hp⟩)⟩⟩
  intro sent failed zero n burst current sustain
  refine ⟨fun hok => ⟨fun hp => ?_, fun hp => ?_, fun hp => ?_⟩, fun k herr => ⟨fun hp => ?_, fun hp => ?_, fun hp => ?_⟩⟩
  · rw [seqMove_burst hs hw ht hp, burstStep_eq, sendDuty_eq, writeOutcome_ok hok, hok]
    rfl
  · rw [seqMove_current hs hw ht hp, currentStep_eq, sendCurrentZero_eq, writeOutcome_ok hok, hok]
    rfl
  · rw [seqMove_sustain hs hw ht hp, sustainStep_eq, sendDuty_eq, writeOutcome_ok hok, hok, hp]
    rfl
  · rw [seqMove_burst hs hw ht hp, burstStep_eq, sendDuty_eq, writeOutcome_err herr, herr]
    rfl
  · rw [seqMove_current hs hw ht hp, currentStep_eq, sendCurrentZero_eq, writeOutcome_err herr, herr]
    rfl
  · rw [seqMove_sustain hs hw ht hp, sustainStep_eq, sendDuty_eq, writeOutcome_err herr, herr, hp]
    rfl

/-- Everything `complete_session()` changes, with the gate's test as R376 writes it. -/
theorem completeSession_releases (s : State) :
    s.completeSession = { s with
      seq := { s.seq with
        state := .idle, cancel := false, sessionGated := false, autoPaused := false, sessionKind := .none }
      gate :=
        if s.seq.sessionGated = false then s.gate
        else if s.params.cooldown = 0 then { s.gate with state := .idle }
        else { state := .cooldown, wait := BitVec.ofNat 32 s.params.cooldown }
      poll :=
        if s.seq.autoPaused = true ∧ s.poll.state = .paused then
          { s.poll with state := .running, phase := .tick, wait := 0 }
        else s.poll } := by
  rw [completeSession_eq]
  cases hg : s.seq.sessionGated <;> rfl

theorem flushStep_reconfirms {s : State} (h : s.params.stopReconfirm = true) :
    s.flushStep = { s.chanFlush with seq := { s.seq with stopPhase := .reconfirm, wait := 0 } } :=
  if_pos h

theorem flushStep_completes {s : State} (h : s.params.stopReconfirm = false) :
    s.flushStep = s.chanFlush.completeSession :=
  if_neg (by simp [chanFlush_eq, h])

theorem flushStep_wire (s : State) : s.flushStep.wire = s.wire ++ [.flush] := by
  cases hre : s.params.stopReconfirm
  · rw [flushStep_completes hre, completeSession_eq, chanFlush_eq]
  · rw [flushStep_reconfirms hre, chanFlush_eq]

theorem reconfirmStep_wire (s : State) :
    s.reconfirmStep.wire = s.wire ++ [.write s.currentZeroFrame s.writeOutcome] := by
  rw [State.reconfirmStep, completeSession_eq, reportWrite_eq, sendCurrentZero_eq]

/-- Settles O40: the flush, or the reconfirmation and its report, and then `complete_session()`. -/
theorem completionFlushesAndReleases : Obligations.CompletionFlushesAndReleases := by
  intro s hs hw flushed released gate poll
  refine ⟨fun hp hre => ?_, fun hp hre => ?_, fun hp ht => ⟨fun hok => ?_, fun k herr => ?_⟩⟩
  · rw [seqMove_flush hs hw hp, flushStep_reconfirms hre, chanFlush_eq]
  · rw [seqMove_flush hs hw hp, flushStep_completes hre, completeSession_releases, chanFlush_eq]
  · rw [seqMove_reconfirm hs hw ht hp, State.reconfirmStep, completeSession_releases, sendCurrentZero_eq,
      writeOutcome_ok hok, hok]
    rfl
  · rw [seqMove_reconfirm hs hw ht hp, State.reconfirmStep, completeSession_releases, sendCurrentZero_eq,
      writeOutcome_err herr, herr]
    rfl

end Sys2Proof.Machine
end

section
/-! PROOF. Runs of the `SEQ` agent (43_duty_sequencer.md R354, R356, R378): the channel operations a ramp or the stop procedure
still has to do stand in its registers, each step does the first of them, and so a run does them all, in order. -/

namespace Sys2Proof.Machine

/-! ### A run by its operations -/

theorem seqRun_cons {s t : State} {d : ChanDraw} (ds : List ChanDraw) (h : (s.waitedOut d).seqMove = some t) :
    seqRun (d :: ds) s = seqRun ds t := by
  rw [seqRun, h, Option.getD_some]

/-- One channel operation of `SEQ`: a frame to write, or the flush (as `State.stopOps` lists them). -/
abbrev ChanOp := Option (List Byte)

/-- With its wait over and the draw `d`, `SEQ` does the channel operation `op`, and `P` holds after it. -/
def State.Does (op : ChanOp) (d : ChanDraw) (P : State → Prop) (s : State) : Prop :=
  ∃ t, (s.waitedOut d).seqMove = some t ∧ t.wire = s.wire ++ [stopRecord op d] ∧ P t

/-- If `P ops s` says that `ops` is left to do in `s`, and each step does the first operation left, then a run of as many
steps records them all and leaves none. -/
theorem seqRun_does {P : List ChanOp → State → Prop} {ok : ChanDraw → Prop}
    (hstep : ∀ {op ops d s}, ok d → P (op :: ops) s → s.Does op d (P ops))
    {ops : List ChanOp} {ds : List ChanDraw} {s : State} (h : P ops s) (hlen : ds.length = ops.length)
    (hok : ∀ d ∈ ds, ok d) :
    (seqRun ds s).wire = s.wire ++ List.zipWith stopRecord ops ds ∧ P [] (seqRun ds s) := by
  induction ops generalizing ds s with
  | nil =>
    rw [List.length_eq_zero_iff.1 hlen]
    exact ⟨(List.append_nil _).symm, h⟩
  | cons op ops ih =>
    obtain ⟨d, ds, rfl⟩ := List.exists_cons_of_length_eq_add_one hlen
    obtain ⟨hd, hds⟩ := List.forall_mem_cons.1 hok
    obtain ⟨t, hmove, hwire, ht⟩ := hstep hd h
    obtain ⟨hrun, hend⟩ := ih ht (Nat.succ.inj hlen) hds
    rw [seqRun_cons ds hmove]
    exact ⟨by rw [hrun, hwire, List.append_assoc]; rfl, hend⟩

/-- The frames of the duties `vs`, as channel operations. -/
def State.dutyOps (s : State) (vs : List Int) : List ChanOp := vs.map fun v => some (s.dutyFrame v)

@[simp] theorem dutyOps_length (s : State) (vs : List Int) : (s.dutyOps vs).length = vs.length := List.length_map ..

/-- The records of duty frames that are all written. -/
theorem zipWith_dutyOps (s : State) {vs : List Int} {ds : List ChanDraw} (hlen : ds.length = vs.length)
    (hok : ∀ d ∈ ds, d.write = .ok) :
    List.zipWith stopRecord (s.dutyOps vs) ds = vs.map fun v => .write (s.dutyFrame v) .ok := by
  induction vs generalizing ds with
  | nil => rfl
  | cons v vs ih =>
    obtain ⟨d, ds, rfl⟩ := List.exists_cons_of_length_eq_add_one hlen
    obtain ⟨hd, hds⟩ := List.forall_mem_cons.1 hok
    have hrest := ih (Nat.succ.inj hlen) hds
    simp only [State.dutyOps] at hrest
    simp [State.dutyOps, stopRecord, hd, outcomeOf, hrest]

/-! ### RAMPING_UP (R353, R354) -/

/-- The duties a ramp up to `T` still sends at the index `k`. -/
def rampUpLeft (T : Int) (k : Nat) : List Int :=
  (List.range' k (T.natAbs + 1 - k)).map (fun j : Nat => T.sign * (j : Int)) ++ [T]

theorem rampUpLeft_climbs {T : Int} {k : Nat} (h : k ≤ T.natAbs) :
    rampUpLeft T k = T.sign * (k : Int) :: rampUpLeft T (k + 1) := by
  rw [rampUpLeft, rampUpLeft, show T.natAbs + 1 - k = (T.natAbs + 1 - (k + 1)) + 1 by omega, List.range'_succ]
  rfl

theorem rampUpLeft_arrives {T : Int} {k : Nat} (h : T.natAbs < k) : rampUpLeft T k = [T] := by
  rw [rampUpLeft, Nat.sub_eq_zero_of_le h]
  rfl

/-- R354's values, each index cast on its own: `rampUpValues` casts the whole list of indices. -/
theorem rampUpValues_eq (T : Int) :
    rampUpValues T = (List.range T.natAbs).map (fun j : Nat => T.sign * ((j : Int) + 1)) ++ [T] := by
  simp [rampUpValues, ← List.map_eq_flatMap, Function.comp_def]

theorem rampUpValues_length (T : Int) : (rampUpValues T).length = T.natAbs + 1 := by simp [rampUpValues_eq]

theorem rampUpLeft_one (T : Int) : rampUpLeft T 1 = rampUpValues T := by
  rw [rampUpValues_eq, rampUpLeft, Nat.add_sub_cancel, List.range'_eq_map_range, List.map_map]
  refine congrArg (· ++ [T]) (List.map_congr_left fun j _ => ?_)
  simp [Int.add_comm]

/-- A ramp up to `T` in which `ops` is left to do; once nothing is left it is the hold, of `h` ticks, and `n` frames are
counted. -/
structure State.RampsUp (T : BitVec 8) (h n : Half) (ops : List ChanOp) (s : State) : Prop where
  ready : s.crc.tblReady = true
  cancel : s.seq.cancel = false
  target : s.seq.target = T
  mag : s.targetMag ≤ 100
  hold : s.seq.hold = h
  count : s.counters.txFrame + BitVec.ofNat 16 ops.length = n
  phase : (s.seq.state = .rampingUp ∧ ops = s.dutyOps (rampUpLeft s.targetPct s.seq.rampK.toNat))
    ∨ (ops = [] ∧ s.seq.state = .holding ∧ s.seq.wait = h.setWidth 32 ∧ s.seq.duty = T)

theorem State.RampsUp.done {T : BitVec 8} {h n : Half} {s : State} (hr : s.RampsUp T h n []) :
    s.seq.state = .holding ∧ s.seq.wait = h.setWidth 32 ∧ s.seq.duty = T := by
  obtain ⟨-, hdone⟩ := hr.phase.resolve_left (by simp [State.dutyOps, rampUpLeft])
  exact hdone

/-- One more frame counted is one fewer to come. -/
theorem count_succ (c : Half) (k : Nat) : c + 1 + BitVec.ofNat 16 k = c + BitVec.ofNat 16 (k + 1) := by
  rw [BitVec.ofNat_add, BitVec.add_assoc, BitVec.add_comm 1]
  rfl

/-- A step of the ramp up does the first frame left. -/
theorem rampsUp_step {T : BitVec 8} {h n : Half} {op : ChanOp} {ops : List ChanOp} {d : ChanDraw}
    {s : State} (hok : d.write = .ok) (hr : s.RampsUp T h n (op :: ops)) :
    s.Does op d (State.RampsUp T h n ops) := by
  obtain ⟨ready, cancel, target, mag, hold, count, phase⟩ := hr
  obtain ⟨hs, hops⟩ := phase.resolve_right (by simp)
  have hmove : (s.waitedOut d).seqMove = some (s.waitedOut d).rampUpStep := seqMove_rampUp rfl ready hs cancel
  have hcount := (count_succ s.counters.txFrame ops.length).trans count
  by_cases hk : s.seq.rampK.toNat ≤ s.targetMag
  · rw [rampUpLeft_climbs (T := s.targetPct) hk] at hops
    obtain ⟨rfl, rfl⟩ := List.cons.inj hops
    rw [rampUpStep_climbs (s := s.waitedOut d) hok hk] at hmove
    have hnext : (s.seq.rampK + 1).toNat = s.seq.rampK.toNat + 1 := by bv_omega
    refine ⟨_, hmove, by simp only [stopRecord, hok]; rfl, ready, cancel, target, mag, hold, hcount, .inl ⟨hs, ?_⟩⟩
    change _ = s.dutyOps (rampUpLeft s.targetPct (s.seq.rampK + 1).toNat)
    rw [hnext]
    rfl
  · have hk := Nat.not_le.1 hk
    rw [rampUpLeft_arrives (T := s.targetPct) hk] at hops
    obtain ⟨rfl, rfl⟩ := List.cons.inj hops
    rw [rampUpStep_arrives (s := s.waitedOut d) hok hk] at hmove
    refine ⟨_, hmove, by simp only [stopRecord, hok]; rfl, ready, cancel, target, mag, hold, hcount,
      .inr ⟨rfl, rfl, by rw [← hold]; rfl, ?_⟩⟩
    exact (BitVec.ofInt_toInt (x := s.seq.target)).trans target

/-- Settles O35: a run of the ramp's operations, and its two kinds of step. -/
theorem rampUpSendsUnitStepsThenTheTarget : Obligations.RampUpSendsUnitStepsThenTheTarget := by
  refine ⟨fun s ds ht hs hc hK hmag hlen hok => ?_, fun s hs hc => ⟨fun ht hw hok hk => ?_, fun ht hw hok hk => ?_, ?_⟩⟩
  · have hvalues : (rampUpValues s.targetPct).length = s.targetMag + 1 := rampUpValues_length _
    have hstart : s.RampsUp s.seq.target s.seq.hold (s.counters.txFrame + BitVec.ofNat 16 (s.targetMag + 1))
        (s.dutyOps (rampUpValues s.targetPct)) := by
      refine ⟨ht, hc, rfl, hmag, rfl, by rw [dutyOps_length, hvalues], .inl ⟨hs, ?_⟩⟩
      rw [hK, ← rampUpLeft_one]
      rfl
    obtain ⟨hwire, hend⟩ := seqRun_does rampsUp_step hstart (by rw [dutyOps_length, hvalues, hlen]) hok
    obtain ⟨hhold, hwait, hduty⟩ := hend.done
    rw [zipWith_dutyOps s (hlen.trans hvalues.symm) hok] at hwire
    exact ⟨hwire, hhold, hwait, hduty, by simpa using hend.count⟩
  · rw [seqMove_rampUp hw ht hs hc, rampUpStep_climbs hok hk]
  · rw [seqMove_rampUp hw ht hs hc, rampUpStep_arrives hok hk]
  · rintro (ht | hw)
    · exact seqMove_awaitsTable ht (.inl ⟨.inl hs, hc⟩)
    · exact seqMove_waits (by simp [hs]) (.inl hc) hw

/-! ### RAMPING_DOWN (R355, R356) -/

/-- The duties a ramp down from `T` still sends at the index `k`. -/
def rampDownLeft (T : Int) (k : Nat) : List Int := (List.range k).map fun j : Nat => T.sign * ((k : Int) - (j : Int))

theorem rampDownLeft_succ (T : Int) (k : Nat) :
    rampDownLeft T (k + 1) = T.sign * ((k + 1 : Nat) : Int) :: rampDownLeft T k := by
  rw [rampDownLeft, List.range_succ_eq_map, List.map_cons, List.map_map]
  refine congrArg₂ List.cons (by simp) (List.map_congr_left fun j _ => ?_)
  simp

/-- R356's values, each index cast on its own. -/
theorem rampDownValues_eq (T : Int) :
    rampDownValues T = (List.range (T.natAbs - 1)).map fun j : Nat => T.sign * ((T.natAbs : Int) - 1 - (j : Int)) := by
  simp [rampDownValues, ← List.map_eq_flatMap, Function.comp_def]

theorem rampDownValues_length (T : Int) : (rampDownValues T).length = T.natAbs - 1 := by simp [rampDownValues_eq]

theorem rampDownLeft_values {T : Int} (h : 1 ≤ T.natAbs) : rampDownLeft T (T.natAbs - 1) = rampDownValues T := by
  rw [rampDownLeft, rampDownValues_eq, Int.natCast_sub h]
  rfl

/-- A ramp down in which `ops` is left to do; once nothing is left it is the stop procedure, `w` ticks away. -/
structure State.RampsDown (w : Word) (ops : List ChanOp) (s : State) : Prop where
  ready : s.crc.tblReady = true
  cancel : s.seq.cancel = false
  delay : BitVec.ofNat 32 s.params.stepDelay = w
  phase : (s.seq.state = .rampingDown ∧ 1 ≤ s.seq.rampK.toNat
      ∧ ops = s.dutyOps (rampDownLeft s.targetPct s.seq.rampK.toNat))
    ∨ (ops = [] ∧ s.seq.state = .stopping ∧ s.seq.stopPhase = .burst ∧ s.seq.stopCnt = 0 ∧ s.seq.wait = w)

theorem State.RampsDown.done {w : Word} {s : State} (h : s.RampsDown w []) :
    s.seq.state = .stopping ∧ s.seq.stopPhase = .burst ∧ s.seq.stopCnt = 0 ∧ s.seq.wait = w := by
  rcases h.phase with ⟨-, hpos, hnil⟩ | ⟨-, hdone⟩
  · rw [← Nat.sub_add_cancel hpos, rampDownLeft_succ] at hnil
    cases hnil
  · exact hdone

/-- A step of the ramp down does the first frame left. -/
theorem rampsDown_step {w : Word} {op : ChanOp} {ops : List ChanOp} {d : ChanDraw} {s : State}
    (hok : d.write = .ok) (hr : s.RampsDown w (op :: ops)) :
    s.Does op d (State.RampsDown w ops) := by
  obtain ⟨ready, cancel, delay, phase⟩ := hr
  obtain ⟨hs, hpos, hops⟩ := phase.resolve_right (by simp)
  have hmove : (s.waitedOut d).seqMove = some (s.waitedOut d).rampDownStep := seqMove_rampDown rfl ready hs cancel
  rw [← Nat.sub_add_cancel hpos, rampDownLeft_succ, Nat.sub_add_cancel hpos] at hops
  obtain ⟨rfl, rfl⟩ := List.cons.inj hops
  by_cases hk : 1 < s.seq.rampK.toNat
  · rw [rampDownStep_descends (s := s.waitedOut d) hok hk] at hmove
    have hnext : (s.seq.rampK - 1).toNat = s.seq.rampK.toNat - 1 := by bv_omega
    refine ⟨_, hmove, by simp only [stopRecord, hok]; rfl, ready, cancel, delay, .inl ⟨hs, ?_, ?_⟩⟩
    · exact hnext ▸ Nat.le_sub_one_of_lt hk
    · change _ = s.dutyOps (rampDownLeft s.targetPct (s.seq.rampK - 1).toNat)
      rw [hnext]
      rfl
  · rw [rampDownStep_stops (s := s.waitedOut d) hok (Nat.not_lt.1 hk)] at hmove
    refine ⟨_, hmove, by simp only [stopRecord, hok]; rfl, ready, cancel, delay, .inr ⟨?_, rfl, rfl, rfl, delay⟩⟩
    rw [show s.seq.rampK.toNat - 1 = 0 by omega]
    rfl

/-- The end of the hold leaves all the frames from one below the target to do (R355). -/
theorem rampsDown_endHold {s : State} (ht : s.crc.tblReady = true) (hc : s.seq.cancel = false)
    (hmode : s.params.stopMode = .rampDown) (hlow : 2 ≤ s.targetMag) (hmag : s.targetMag ≤ 100) :
    s.endHold.RampsDown (BitVec.ofNat 32 s.params.stepDelay) (s.dutyOps (rampDownValues s.targetPct)) := by
  have hK : (BitVec.ofNat 7 (s.targetMag - 1)).toNat = s.targetMag - 1 := by
    rw [BitVec.toNat_ofNat]
    omega
  rw [endHold_rampsDown hmode hlow]
  refine ⟨ht, hc, rfl, .inl ⟨rfl, (Nat.le_sub_one_of_lt hlow).trans hK.ge, ?_⟩⟩
  change _ = s.dutyOps (rampDownLeft s.targetPct (BitVec.ofNat 7 (s.targetMag - 1)).toNat)
  rw [hK, ← rampDownLeft_values (show 1 ≤ s.targetPct.natAbs from Nat.le_of_lt hlow)]
  rfl

/-- Settles O36: the end of the hold, a run of the ramp's operations, and the two kinds of step. -/
theorem rampDownSendsUnitStepsThenStops : Obligations.RampDownSendsUnitStepsThenStops := by
  refine ⟨fun s ds ht hs hc hmode hlow hmag hlen hok => ?_, fun s hs hc hw hmode hlow => ?_,
    fun s hs hc => ⟨fun ht hw hok => ⟨fun hk => ?_, fun hk => ?_⟩, ?_⟩⟩
  · obtain ⟨d, ds, rfl⟩ := List.exists_cons_of_length_pos (show 0 < ds.length by omega)
    obtain ⟨-, hok⟩ := List.forall_mem_cons.1 hok
    have hvalues : ds.length = (rampDownValues s.targetPct).length :=
      (Nat.eq_sub_of_add_eq hlen).trans (rampDownValues_length _).symm
    have hmove : (s.waitedOut d).seqMove = some (s.waitedOut d).endHold := seqMove_endHold rfl hs hc
    have hstart := rampsDown_endHold (s := s.waitedOut d) ht hc hmode hlow hmag
    obtain ⟨hwire, hend⟩ := seqRun_does rampsDown_step hstart (hvalues.trans (dutyOps_length _ _).symm) hok
    have hsilent : (s.waitedOut d).endHold.wire = s.wire := by rw [endHold_rampsDown (s := s.waitedOut d) hmode hlow]; rfl
    rw [hsilent] at hwire
    rw [seqRun_cons ds hmove, ← zipWith_dutyOps s hvalues hok]
    exact ⟨hwire, hend.done⟩
  · rw [seqMove_endHold hw hs hc, endHold_rampsDown hmode hlow]
  · rw [seqMove_rampDown hw ht hs hc, rampDownStep_descends hok hk]
    rfl
  · rw [seqMove_rampDown hw ht hs hc, rampDownStep_stops hok hk]
    rfl
  · rintro (ht | hw)
    · exact seqMove_awaitsTable ht (.inl ⟨.inr hs, hc⟩)
    · exact seqMove_waits (by simp [hs]) (.inl hc) hw

/-! ### The stop procedure (R378) -/

/-- What the stop procedure does after its last SUSTAIN frame. -/
def State.stopEnd (s : State) : List ChanOp :=
  none :: if s.params.stopReconfirm then [some s.currentZeroFrame] else []

/-- What it does after its last BURST frame. -/
def State.stopAfterBurst (s : State) : List ChanOp :=
  some s.currentZeroFrame :: (List.replicate s.params.stopSustainN (some (s.dutyFrame 0)) ++ s.stopEnd)

/-- The stop procedure in its phase, with `ops` left to do; past the burst `DUTY` is 0. -/
def State.StopsWith (ops : List ChanOp) (s : State) : Prop :=
  match s.seq.stopPhase with
  | .burst => s.seq.stopCnt.toNat < s.params.stopBurstN
      ∧ ops = List.replicate (s.params.stopBurstN - s.seq.stopCnt.toNat) (some (s.dutyFrame 0)) ++ s.stopAfterBurst
  | .current => s.seq.duty = 0 ∧ ops = s.stopAfterBurst
  | .sustain => s.seq.duty = 0 ∧ s.seq.stopCnt.toNat < s.params.stopSustainN
      ∧ ops = List.replicate (s.params.stopSustainN - s.seq.stopCnt.toNat) (some (s.dutyFrame 0)) ++ s.stopEnd
  | .flush => s.seq.duty = 0 ∧ s.seq.ctrlMode = .duty ∧ ops = s.stopEnd
  | .reconfirm => s.seq.duty = 0 ∧ s.params.stopReconfirm = true ∧ ops = [some s.currentZeroFrame]

/-- The session is over (R376). -/
structure State.Stopped (s : State) : Prop where
  state : s.seq.state = .idle
  kind : s.seq.sessionKind = .none
  cancel : s.seq.cancel = false
  duty : s.seq.duty = 0
  mode : s.seq.ctrlMode = if s.params.stopReconfirm then .current else .duty

/-- A stop procedure in which `ops` is left to do; once nothing is left the session is over. -/
structure State.Stops (p : Config.Params) (ops : List ChanOp) (s : State) : Prop where
  params : s.params = p
  ready : s.crc.tblReady = true
  phase : (s.seq.state = .stopping ∧ s.StopsWith ops) ∨ (ops = [] ∧ s.Stopped)

theorem valid_stopCounts {p : Config.Params} (h : p.Valid) : p.stopBurstN ≤ 255 ∧ p.stopSustainN ≤ 255 := by
  simp [Config.Params.Valid, Config.Params.valid] at h
  omega

/-- The frame count of a phase of at most 255 frames, one frame further on. -/
theorem stopCnt_succ {c : BitVec 8} {n : Nat} (hn : n ≤ 255) (h : c.toNat < n) : (c + 1).toNat = c.toNat + 1 := by
  bv_omega

theorem replicate_sub_succ {α : Type} {c n : Nat} (h : c < n) (x : α) :
    List.replicate (n - c) x = x :: List.replicate (n - (c + 1)) x := by
  rw [show n - c = n - (c + 1) + 1 by omega, List.replicate_succ]

/-- A zero frame of the burst (R371). -/
theorem stopsWith_burstStep {s : State} {op : ChanOp} {ops : List ChanOp}
    (hn : s.params.stopBurstN ≤ 255) (hp : s.seq.stopPhase = .burst) (h : s.StopsWith (op :: ops)) :
    op = some (s.dutyFrame 0) ∧ s.burstStep.StopsWith ops := by
  simp only [State.StopsWith, hp] at h
  obtain ⟨hcnt, hops⟩ := h
  have hnext := stopCnt_succ hn hcnt
  rw [replicate_sub_succ hcnt] at hops
  obtain ⟨rfl, rfl⟩ := List.cons.inj hops
  refine ⟨rfl, ?_⟩
  rw [burstStep_eq]
  by_cases hmore : (s.seq.stopCnt + 1).toNat < s.params.stopBurstN
  · rw [if_pos hmore, ← hnext]
    exact ⟨hmore, rfl⟩
  · rw [if_neg hmore, ← hnext, Nat.sub_eq_zero_of_le (Nat.not_lt.1 hmore)]
    exact ⟨rfl, rfl⟩

/-- The zero-current frame (R372). -/
theorem stopsWith_currentStep {s : State} {op : ChanOp} {ops : List ChanOp}
    (hn : 2 ≤ s.params.stopSustainN) (hp : s.seq.stopPhase = .current) (h : s.StopsWith (op :: ops)) :
    op = some s.currentZeroFrame ∧ s.currentStep.StopsWith ops := by
  simp only [State.StopsWith, hp] at h
  obtain ⟨hduty, hops⟩ := h
  obtain ⟨rfl, rfl⟩ := List.cons.inj hops
  rw [currentStep_eq]
  exact ⟨rfl, hduty, Nat.lt_of_lt_of_le Nat.zero_lt_two hn, rfl⟩

/-- A zero frame of the sustain (R373). -/
theorem stopsWith_sustainStep {s : State} {op : ChanOp} {ops : List ChanOp}
    (hn : s.params.stopSustainN ≤ 255) (hp : s.seq.stopPhase = .sustain) (h : s.StopsWith (op :: ops)) :
    op = some (s.dutyFrame 0) ∧ s.sustainStep.StopsWith ops := by
  simp only [State.StopsWith, hp] at h
  obtain ⟨-, hcnt, hops⟩ := h
  have hnext := stopCnt_succ hn hcnt
  rw [replicate_sub_succ hcnt] at hops
  obtain ⟨rfl, rfl⟩ := List.cons.inj hops
  refine ⟨rfl, ?_⟩
  rw [sustainStep_eq, hp]
  by_cases hmore : (s.seq.stopCnt + 1).toNat < s.params.stopSustainN
  · rw [if_pos hmore, ← hnext]
    exact ⟨rfl, hmore, rfl⟩
  · rw [if_neg hmore, ← hnext, Nat.sub_eq_zero_of_le (Nat.not_lt.1 hmore)]
    exact ⟨rfl, rfl, rfl⟩

/-- The session's end (R376) frees the lock and leaves `DUTY` and `CTRL_MODE` as they are. -/
theorem stopped_completeSession {s : State} (hduty : s.seq.duty = 0)
    (hmode : s.seq.ctrlMode = if s.params.stopReconfirm then .current else .duty) : s.completeSession.Stopped := by
  rw [completeSession_eq]
  exact ⟨rfl, rfl, rfl, hduty, hmode⟩

/-- The flush goes on to the reconfirmation, or ends the session (R374). -/
theorem flushStep_stops {s : State} {op : ChanOp} {ops : List ChanOp}
    (hs : s.seq.state = .stopping) (hp : s.seq.stopPhase = .flush) (h : s.StopsWith (op :: ops)) :
    op = none ∧ ((s.flushStep.seq.state = .stopping ∧ s.flushStep.StopsWith ops) ∨ (ops = [] ∧ s.flushStep.Stopped)) := by
  simp only [State.StopsWith, hp] at h
  obtain ⟨hduty, hmode, hops⟩ := h
  obtain ⟨rfl, rfl⟩ := List.cons.inj hops
  cases hre : s.params.stopReconfirm
  · rw [flushStep_completes hre]
    refine ⟨rfl, .inr ⟨rfl, stopped_completeSession hduty ?_⟩⟩
    rw [chanFlush_eq]
    simp only [hmode, hre]
    rfl
  · rw [flushStep_reconfirms hre]
    exact ⟨rfl, .inl ⟨hs, hduty, hre, rfl⟩⟩

/-- The reconfirmation ends the session (R375). -/
theorem reconfirmStep_stops {s : State} {op : ChanOp} {ops : List ChanOp}
    (hp : s.seq.stopPhase = .reconfirm) (h : s.StopsWith (op :: ops)) :
    op = some s.currentZeroFrame ∧ ops = [] ∧ s.reconfirmStep.Stopped := by
  simp only [State.StopsWith, hp] at h
  obtain ⟨hduty, hre, hops⟩ := h
  obtain ⟨rfl, rfl⟩ := List.cons.inj hops
  rw [State.reconfirmStep, sendCurrentZero_eq, reportWrite_eq]
  exact ⟨rfl, rfl, stopped_completeSession hduty (if_pos hre).symm⟩

/-- A step of the stop procedure does the first operation left. -/
theorem stops_step {p : Config.Params} (hv : p.Valid) {op : ChanOp} {ops : List ChanOp}
    {d : ChanDraw} {s : State} (h : s.Stops p (op :: ops)) :
    s.Does op d (State.Stops p ops) := by
  obtain ⟨rfl, ready, phase⟩ := h
  obtain ⟨hs, hleft⟩ := phase.resolve_right (by simp)
  obtain ⟨hburst, hsustain⟩ := valid_stopCounts hv
  obtain ⟨-, -, hpos⟩ := valid_bounds hv
  have next {t : State} (hmove : (s.waitedOut d).seqMove = some t) (hwire : t.wire = s.wire ++ [stopRecord op d])
      (hphase : (t.seq.state = .stopping ∧ t.StopsWith ops) ∨ (ops = [] ∧ t.Stopped)) :
      s.Does op d (State.Stops s.params ops) :=
    ⟨t, hmove, hwire, (kept_seqMove hmove).params, (kept_seqMove hmove).tblReady.trans ready, hphase⟩
  cases hp : s.seq.stopPhase
  case burst =>
    obtain ⟨rfl, hrest⟩ := stopsWith_burstStep (s := s.waitedOut d) hburst hp hleft
    exact next (seqMove_burst hs rfl ready hp) (by rw [burstStep_eq]; rfl) (.inl ⟨by rw [burstStep_eq]; exact hs, hrest⟩)
  case current =>
    obtain ⟨rfl, hrest⟩ := stopsWith_currentStep (s := s.waitedOut d) hpos hp hleft
    exact next (seqMove_current hs rfl ready hp) (by rw [currentStep_eq]; rfl)
      (.inl ⟨by rw [currentStep_eq]; exact hs, hrest⟩)
  case sustain =>
    obtain ⟨rfl, hrest⟩ := stopsWith_sustainStep (s := s.waitedOut d) hsustain hp hleft
    exact next (seqMove_sustain hs rfl ready hp) (by rw [sustainStep_eq]; rfl)
      (.inl ⟨by rw [sustainStep_eq]; exact hs, hrest⟩)
  case flush =>
    obtain ⟨rfl, hphase⟩ := flushStep_stops (s := s.waitedOut d) hs hp hleft
    exact next (seqMove_flush hs rfl hp) (flushStep_wire _) hphase
  case reconfirm =>
    obtain ⟨rfl, hphase⟩ := reconfirmStep_stops (s := s.waitedOut d) hp hleft
    exact next (seqMove_reconfirm hs rfl ready hp) (reconfirmStep_wire _) (.inr hphase)

theorem State.Stops.done {p : Config.Params} {s : State} (h : s.Stops p []) : s.Stopped := by
  rcases h.phase with ⟨-, hleft⟩ | ⟨-, hdone⟩
  · exfalso
    unfold State.StopsWith at hleft
    split at hleft <;> simp [State.stopAfterBurst, State.stopEnd] at hleft
  · exact hdone

/-- At the start of the stop procedure, all of R378's operations are left. -/
theorem stops_start {s : State} (hv : s.params.Valid) (ht : s.crc.tblReady = true) (hs : s.seq.state = .stopping)
    (hp : s.seq.stopPhase = .burst) (hc : s.seq.stopCnt = 0) : s.Stops s.params s.stopOps := by
  obtain ⟨-, hburst, -⟩ := valid_bounds hv
  refine ⟨rfl, ht, .inl ⟨hs, ?_⟩⟩
  simp only [State.StopsWith, hp, hc]
  exact ⟨Nat.lt_of_lt_of_le Nat.zero_lt_two hburst, by simp [State.stopOps, State.stopAfterBurst, State.stopEnd]⟩

/-- Settles O39: a run of the stop procedure's operations, whatever the draws. -/
theorem stopProcedureOutput : Obligations.StopProcedureOutput := by
  intro s ds hv ht hs hp hc hlen
  obtain ⟨hwire, hend⟩ := seqRun_does (ok := fun _ => True) (fun _ => stops_step hv) (stops_start hv ht hs hp hc) hlen
    (fun _ _ => trivial)
  obtain ⟨hstate, hkind, hcancel, hduty, hmode⟩ := hend.done
  rw [hend.params] at hmode
  exact ⟨hwire, hstate, hkind, hcancel, hduty, hmode⟩

end Sys2Proof.Machine
end

section
/-! PROOF. What a session keeps (43_duty_sequencer.md R394, R395): the records a `SEQ` step can make, and the commands executed
while a session holds the lock. -/

namespace Sys2Proof.Machine

/-! ### The record of a SEQ step -/

/-- What a `SEQ` step can write: no duty frame but those of R353, R356, R371 and R373. -/
inductive State.SeqRecord (s : State) : WireRecord → Prop
  | flush : s.SeqRecord .flush
  | current : s.SeqRecord (.write s.currentZeroFrame s.writeOutcome)
  | zero : s.SeqRecord (.write (s.dutyFrame 0) s.writeOutcome)
  | up : s.seq.state = .rampingUp → s.SeqRecord (.write (s.dutyFrame s.rampUpDuty) s.writeOutcome)
  | down : s.seq.state = .rampingDown → s.SeqRecord (.write (s.dutyFrame s.rampDownDuty) s.writeOutcome)

theorem rampUpStep_wire (s : State) :
    s.rampUpStep.wire = s.wire ++ [.write (s.dutyFrame s.rampUpDuty) s.writeOutcome] := by
  have hsent : (s.sendDuty s.rampUpDuty).wire = s.wire ++ [.write (s.dutyFrame s.rampUpDuty) s.writeOutcome] := by
    rw [sendDuty_eq]
  rw [← hsent, State.rampUpStep]
  split
  · rw [abortSession_eq]
  · unfold State.rampUpNext
    split <;> rfl

theorem rampDownStep_wire (s : State) :
    s.rampDownStep.wire = s.wire ++ [.write (s.dutyFrame s.rampDownDuty) s.writeOutcome] := by
  have hsent : (s.sendDuty s.rampDownDuty).wire = s.wire ++ [.write (s.dutyFrame s.rampDownDuty) s.writeOutcome] := by
    rw [sendDuty_eq]
  rw [← hsent, State.rampDownStep]
  split
  · rw [abortSession_eq]
  · unfold State.rampDownNext
    split <;> rfl

theorem endHold_wire (s : State) : s.endHold.wire = s.wire := by
  unfold State.endHold
  split <;> rfl

theorem stopStep_wire (s : State) : ∃ r, s.SeqRecord r ∧ s.stopStep.wire = s.wire ++ [r] := by
  unfold State.stopStep
  split
  · exact ⟨_, .zero, by rw [burstStep_eq]⟩
  · exact ⟨_, .current, by rw [currentStep_eq]⟩
  · exact ⟨_, .zero, by rw [sustainStep_eq]⟩
  · exact ⟨_, .flush, flushStep_wire s⟩
  · exact ⟨_, .current, reconfirmStep_wire s⟩

theorem seqMove_wire {s t : State} (h : s.seqMove = some t) :
    t.wire = s.wire ∨ ∃ r, s.SeqRecord r ∧ t.wire = s.wire ++ [r] := by
  rcases seqMove_cases h with ⟨-, -, rfl⟩ | ⟨-, -, rfl⟩ | ⟨hs, -, -, -, rfl⟩ | ⟨-, -, -, rfl⟩ | ⟨hs, -, -, -, rfl⟩
    | ⟨-, -, -, rfl⟩
  · exact .inl (by rw [State.emergencyStart, startSession_eq]; rfl)
  · exact .inl rfl
  · exact .inr ⟨_, .up hs, rampUpStep_wire s⟩
  · exact .inl (endHold_wire s)
  · exact .inr ⟨_, .down hs, rampDownStep_wire s⟩
  · exact .inr (stopStep_wire s)

/-- Settles O43: the duties of a ramp lie within the target, and the target within `MAX_DUTY`. -/
theorem sessionFramesStayWithinMaxDuty : Obligations.SessionFramesStayWithinMaxDuty := by
  intro s t hinv _ hmove f o hwire
  obtain ⟨-, hdown, -⟩ := hinv.ramp
  obtain ⟨-, -, -, -, ⟨-, htarget⟩, -⟩ := hinv
  rcases seqMove_wire hmove with hnone | ⟨r, hr, hone⟩
  · rw [hnone] at hwire
    simp at hwire
  · obtain rfl : r = .write f o := by simpa using hone.symm.trans hwire
    cases hr with
    | current => exact .inl rfl
    | zero => exact .inr ⟨0, Nat.zero_le _, rfl⟩
    | up hs => exact .inr ⟨_, (rampUpDuty_natAbs_le s).trans htarget, rfl⟩
    | down hs =>
      have hk : s.seq.rampK.toNat ≤ s.targetMag := Nat.le_of_succ_le (hdown hs).2
      exact .inr ⟨_, ((sign_mul_natAbs_le _ _).trans hk).trans htarget, rfl⟩

/-! ### Commands while the lock is held (R341, R342) -/

/-- The channel and `CANCEL` stay. -/
def Calm (s t : State) : Prop := t.chan = s.chan ∧ t.seq.cancel = s.seq.cancel

theorem Calm.refl (s : State) : Calm s s := ⟨rfl, rfl⟩

theorem Calm.retire {s u : State} (h : Calm s u) : Calm s u.retire := h

theorem calm_accPush (b : List Byte) (s : State) : Calm s (s.accPush b) := by
  unfold State.accPush
  dsimp only
  split <;> exact ⟨rfl, rfl⟩

theorem calm_accScan (s : State) : Calm s s.accScan := by
  rw [accScan_eq, accTrim_eq]
  split <;> exact ⟨rfl, rfl⟩

theorem calm_pollStop (s : State) : Calm s s.pollStop := by
  unfold State.pollStop
  split <;> exact ⟨rfl, rfl⟩

section
variable {s : State}

theorem calm_whenTable {act : State → State} (ha : Calm s (act s)) : Calm s (s.whenTable act) := by
  unfold State.whenTable
  split
  · exact ha
  · exact .refl s

theorem calm_withDin {n : Nat} {act : List Byte → State → State} (ha : Calm s (act (s.din.take n) (s.dinDrop n))) :
    Calm s (s.withDin n act) := by
  unfold State.withDin
  split
  · exact ⟨rfl, rfl⟩
  · split
    · exact .refl s
    · exact ha

theorem calm_whenHostOwnsAcc {act : State → State} (ha : Calm s (act s)) : Calm s (s.whenHostOwnsAcc act) := by
  unfold State.whenHostOwnsAcc
  split
  · exact ha
  · exact ⟨rfl, rfl⟩

variable (hl : s.seq.state ≠ .idle)
include hl

theorem lockFree_session : s.lockFree = false := Bool.eq_false_iff.2 fun h => hl ((lockFree_iff s).1 h).1

/-- A command that needs the lock holds. -/
theorem calm_whenLockFree (act : State → State) : Calm s (s.whenLockFree act) := by
  rw [whenLockFree_held (.inl hl)]
  exact .refl s

/-- In a session only ESTOP touches the channel or `CANCEL`, and it touches `CANCEL`. -/
theorem calm_exec {i : Instr} {t : State} (hi : i ≠ .estop) (h : exec i s = .next t) : Calm s t := by
  cases i <;> cases h
  case estop => exact absurd rfl hi
  case nop | crcInit | crcRead | statusClear => exact ⟨rfl, rfl⟩
  case crcUpdate | tblRead => exact calm_whenTable ⟨rfl, rfl⟩
  case crcBlock => exact calm_whenTable (calm_withDin ⟨rfl, rfl⟩)
  case decodeGv => exact calm_withDin ⟨rfl, rfl⟩
  case txFrame =>
    refine calm_whenTable ?_
    split
    · exact calm_withDin ⟨rfl, rfl⟩
    · exact calm_whenLockFree hl _
  case syncAppend n =>
    exact calm_withDin (.retire (calm_whenHostOwnsAcc (s := s.dinDrop n) (calm_accPush (s.din.take n) _)))
  case syncExtract => exact calm_whenTable (.retire (calm_whenHostOwnsAcc (calm_accScan s)))
  case syncClear => exact .retire (calm_whenHostOwnsAcc (.refl s))
  case setDuty | rampAndHold | hardStop => exact calm_whenTable (calm_whenLockFree hl _)
  case trigger =>
    refine calm_whenTable ?_
    rw [if_neg fun hfree => hl ((lockFree_iff s).1 hfree.2).1]
    exact ⟨rfl, rfl⟩
  case pollStart | pollStartTemp | pollPause | pollResume => split <;> exact ⟨rfl, rfl⟩
  case pollStop => exact .retire (calm_pollStop s)
  case statRead => split <;> exact ⟨rfl, rfl⟩

/-- No command uses the channel. -/
theorem commandUsesChannel_session (i : Instr) : s.commandUsesChannel i = false := by
  cases i <;> simp [State.commandUsesChannel, lockFree_session hl]

end

/-- Settles O44: without the lock a command uses no channel, and what it leaves of the sequencer's registers is said once for
all commands; ESTOP is the one that sets `CANCEL`. -/
theorem commandsInASessionChangeOnlyCancelAndAutoPaused : Obligations.CommandsInASessionChangeOnlyCancelAndAutoPaused := by
  intro i s t hl hexec
  obtain ⟨hgate, hseq, -⟩ := (cmdFrame_exec hexec).session (lockFree_session hl)
  have hrecord := records_exec hexec
  rw [commandUsesChannel_session hl] at hrecord
  obtain ⟨hwire, -⟩ : NoRecord s t := hrecord
  by_cases hi : i = .estop
  · subst hi
    cases hexec
    exact ⟨hwire, rfl, hgate, hseq, fun _ => rfl⟩
  · obtain ⟨hchan, hcancel⟩ := calm_exec hl hi hexec
    exact ⟨hwire, hchan, hgate, hseq, fun hne => absurd hcancel hne⟩

end Sys2Proof.Machine
end

section
/-! PROOF. The telemetry poller (44_poller.md). First its five commands; then each kind of step of the `POLL` agent, said by
the condition under which it is taken; then what such a step leaves alone; and last the requests of an auto-paused poller. -/

namespace Sys2Proof.Machine

/-! ### The commands (R430 to R434) -/

theorem pollStop_stopped {s : State} (h : s.poll.state = .stopped) : s.pollStop = s := if_pos h

/-- Settles O45: whether the poller is stopped decides. -/
theorem pollStartAndPollStartTemp : Obligations.PollStartAndPollStartTemp := by
  refine fun n s => ⟨fun hstopped => ?_, fun hon => ?_⟩
  · rw [exec, exec, execPollStart, execPollStartTemp, if_pos hstopped, if_pos hstopped]
    exact ⟨rfl, rfl⟩
  · rw [exec, exec, execPollStart, execPollStartTemp, if_neg hon, if_neg hon]
    exact ⟨rfl, rfl⟩

/-! ### The step that is enabled (R435, R436, R438) -/

theorem pollMove_expired {s : State} (hactive : s.poll.tempActive = true) (hleft : s.poll.tempLeft = 0)
    (hon : s.poll.state ≠ .stopped) : s.pollMove = some s.pollStop := by
  simp [State.pollMove, State.windowExpired, elapsed, hactive, hleft, hon]

/-- A step of a poller whose window has not expired is a due tick of a running one. -/
theorem pollMove_holds {s : State} (hwindow : s.poll.tempActive = false ∨ s.poll.tempLeft ≠ 0)
    (hnot : s.poll.state ≠ .running ∨ s.poll.wait ≠ 0 ∨ s.crc.tblReady = false) : s.pollMove = none := by
  refine Option.eq_none_iff_forall_ne_some.2 fun t hmove => ?_
  rcases pollMove_cases hmove with ⟨hactive, hleft, -, -⟩ | ⟨hrun, hwait, hready, -, -⟩
  · simp [hactive, hleft] at hwindow
  · simp [hrun, hwait, hready] at hnot

theorem pollMove_stopped {s : State} (h : s.poll.state = .stopped) : s.pollMove = none := by
  refine Option.eq_none_iff_forall_ne_some.2 fun t hmove => ?_
  rcases pollMove_cases hmove with ⟨-, -, hon, -⟩ | ⟨hrun, -⟩
  · exact hon h
  · exact nomatch h.symm.trans hrun

/-- Settles O46: each command acts in the poller states its rule names; an expired window is the stop of R434. -/
theorem pollPauseResumeStopAndExpiry : Obligations.PollPauseResumeStopAndExpiry := by
  refine ⟨fun s =>
      ⟨fun hon => ?_, fun hstopped => ?_, fun hpaused => ?_, fun hnot => ?_, fun hon => ?_, fun hstopped => ?_⟩,
    fun s hactive hleft hon => ?_⟩
  · rw [exec, execPollPause, if_neg hon]
    rfl
  · rw [exec, execPollPause, if_pos hstopped]
    rfl
  · rw [exec, execPollResume, if_pos hpaused]
    rfl
  · rw [exec, execPollResume, if_neg hnot]
    rfl
  · rw [exec, execPollStop, pollStop_eq hon]
    rfl
  · rw [exec, execPollStop, pollStop_stopped hstopped]
    rfl
  · rw [pollMove_expired hactive hleft hon, pollStop_eq hon]

/-! ### The request, and the failures (R421, R435, R436) -/

theorem crc16_requestPayload : crc16 romTable requestPayload = 0x4084 := by
  have hentry : tableEntry 4 = 0x4084 := by decide
  calc crc16 romTable requestPayload = 0 <<< 8 ^^^ tblAt romTable 4 := rfl
    _ = 0x4084 := by rw [tblAt_romTable (by decide), hentry]; rfl

/-- `REQ` over the final table (R421). -/
theorem requestFrame_romTable {s : State} (h : s.crc.tbl = romTable) :
    s.requestFrame = [0x02, 0x01, 0x04, 0x40, 0x84, 0x03] := by
  rw [State.requestFrame, h, encodeFrame, crc16_requestPayload]
  rfl

theorem readResult_bytes {s : State} {n : Nat} (h : s.draw.read = .bytes n) : s.readResult = .bytes (s.readBytes n) := by
  rw [State.readResult, h]

theorem pollRead_err {s : State} (h : s.draw.read = .err) :
    s.pollRead = State.pollReadFailed { s with wire := s.wire ++ [.read s.readResult] } := by
  have hresult : s.readResult = .err := by rw [State.readResult, h]
  rw [State.pollRead, hresult, chanRead_eq, hresult, h]

/-- A read that hands over no byte leaves the pending input as it was. -/
theorem pollRead_empty {s : State} {n : Nat} (h : s.draw.read = .bytes n) (hnone : n = 0 ∨ s.chan.rx = []) :
    s.pollRead = State.pollReadFailed { s with wire := s.wire ++ [.read s.readResult] } := by
  have htake : s.readBytes n = [] := by
    rcases hnone with rfl | hrx
    · simp [State.readBytes]
    · simp [State.readBytes, hrx]
  have hdrop : s.chan.rx.drop (min n s.params.readMax) = s.chan.rx := by
    rcases hnone with rfl | hrx
    · simp
    · simp [hrx]
  have hresult : s.readResult = .bytes [] := by rw [readResult_bytes h, htake]
  rw [State.pollRead, hresult, chanRead_eq, hresult, h]
  simp only [hdrop]

/-- Settles O47: a due tick takes the step of its phase, and the channel's choice its branch. -/
theorem pollTickSendsAndFailuresBackOff : Obligations.PollTickSendsAndFailuresBackOff := by
  refine ⟨fun s hready htbl hrun hphase hwait hwindow => ?_, fun s hready hrun hphase hwait hwindow hread => ?_,
    fun s => pollMove_holds, fun s => pollMove_stopped⟩
  · have hmove : s.pollMove = some s.pollSend := by rw [pollMove_due hready hrun hwait hwindow, hphase]
    rw [hmove, pollSend_eq, requestFrame_romTable htbl]
    refine ⟨fun hok => ?_, fun k herr => ?_⟩
    · rw [writeOutcome_ok hok, hok]
      rfl
    · rw [writeOutcome_err herr, herr, ← hphase]
      rfl
  · have hmove : s.pollMove = some s.pollRead := by rw [pollMove_due hready hrun hwait hwindow, hphase]
    rcases hread with herr | ⟨n, hn, hnone⟩
    · rw [hmove, pollRead_err herr, pollReadFailed_eq]
    · rw [hmove, pollRead_empty hn hnone, pollReadFailed_eq]

/-! ### A read that brings bytes (R436, R440) -/

/-- A scan that leaves more than the threshold (R261). -/
theorem accScan_clears {s : State} (h : s.params.rxClearThreshold < (extract s.crc.tbl s.acc).rem.length) :
    s.accScan = { s with
      acc := []
      sticky := stickyAfter s.sticky (extract s.crc.tbl s.acc).ev ||| 0x200
      counters := { s.counters with
        crcErr := s.counters.crcErr + BitVec.ofNat 16 (crcErrCount (extract s.crc.tbl s.acc).ev)
        termErr := s.counters.termErr + BitVec.ofNat 16 (termErrCount (extract s.crc.tbl s.acc).ev)
        frame := s.counters.frame + BitVec.ofNat 16 (extract s.crc.tbl s.acc).out.length
        rxClr := s.counters.rxClr + 1 }
      out := s.out ++ (extract s.crc.tbl s.acc).ev.map .event
        ++ [.event (.rxClr (extract s.crc.tbl s.acc).rem.length)] } := by
  rw [accScan_eq, bump_frameErrors _ (extract_frameErrors _ _), accTrim_eq, if_pos h]

/-- A scan that leaves no more than the threshold (R261). -/
theorem accScan_keeps {s : State} (h : ¬ s.params.rxClearThreshold < (extract s.crc.tbl s.acc).rem.length) :
    s.accScan = { s with
      acc := (extract s.crc.tbl s.acc).rem
      sticky := stickyAfter s.sticky (extract s.crc.tbl s.acc).ev
      counters := { s.counters with
        crcErr := s.counters.crcErr + BitVec.ofNat 16 (crcErrCount (extract s.crc.tbl s.acc).ev)
        termErr := s.counters.termErr + BitVec.ofNat 16 (termErrCount (extract s.crc.tbl s.acc).ev)
        frame := s.counters.frame + BitVec.ofNat 16 (extract s.crc.tbl s.acc).out.length }
      out := s.out ++ (extract s.crc.tbl s.acc).ev.map .event } := by
  rw [accScan_eq, bump_frameErrors _ (extract_frameErrors _ _), accTrim_eq, if_neg h]

theorem pollRead_bytes {s : State} {n : Nat} (hread : s.draw.read = .bytes n) (hne : s.readBytes n ≠ []) :
    s.pollRead = s.chanRead.pollReadBytes (s.readBytes n) := by
  obtain ⟨x, xs, hb⟩ := List.exists_cons_of_ne_nil hne
  have hresult : s.readResult = .bytes (x :: xs) := by rw [readResult_bytes hread, hb]
  rw [State.pollRead, hresult, hb]

/-- Settles O48: the scan of what is pushed, with its threshold clear or without, and then the payloads. -/
theorem pollReadDecodesEveryPayload : Obligations.PollReadDecodesEveryPayload := by
  intro s n b hready hrun hphase hwait hwindow hread hb hne hroom r clears scanned samples nulls
  subst hb
  have hmove : s.pollMove = some (s.chanRead.pollReadBytes (s.readBytes n)) := by
    rw [pollMove_due hready hrun hwait hwindow, hphase, ← pollRead_bytes hread hne]
  have hpush : s.chanRead.accPush (s.readBytes n) = { s with
      wire := s.wire ++ [.read (.bytes (s.readBytes n))]
      chan := { s.chan with rx := s.chan.rx.drop (min n s.params.readMax) }
      acc := s.acc ++ s.readBytes n } := by
    rw [chanRead_eq, readResult_bytes hread, hread, accPush_fits]
    exact hroom
  rw [hmove, State.pollReadBytes, hpush, (idles_chanRead s).params]
  by_cases hclears : clears
  · rw [accScan_clears hclears, pollPayloads_eq, pollPayloads_stickyBit]
    simp only [hclears, if_true, scanned]
    rfl
  · rw [accScan_keeps hclears, pollPayloads_eq, pollPayloads_stickyBit]
    simp only [hclears, if_false, scanned, List.append_nil]
    rfl

/-! ### What a step of the poller leaves alone (R441, R503) -/

/-- Only the stop writes `AUTO_PAUSED`. -/
theorem pollMove_autoPaused {s t : State} (h : s.pollMove = some t) :
    t.seq.autoPaused = s.seq.autoPaused ∨ t.poll.state = .stopped := by
  rcases pollMove_cases h with ⟨-, -, hon, rfl⟩ | ⟨-, -, -, -, ⟨-, rfl⟩ | ⟨-, rfl⟩⟩
  · rw [pollStop_eq hon]
    exact .inr rfl
  · rw [pollSend_eq]
    exact .inl rfl
  · obtain ⟨d, hidles⟩ := idles_pollRead s
    exact .inl (congrArg Sequencer.autoPaused hidles.seq)

/-- Settles O49: the frame of a `POLL` step, and the one step that writes `AUTO_PAUSED`. -/
theorem pollerChangesNoSeqRegisterButAutoPaused : Obligations.PollerChangesNoSeqRegisterButAutoPaused := by
  intro s t hmove
  have hframe := pollFrame_pollMove hmove
  exact ⟨hframe.seq, hframe.gate, hframe.crc, hframe.din, hframe.cmdIdx, hframe.cmdPort, hframe.cmdData,
    (kept_pollMove hmove).now, (pollMove_autoPaused hmove).resolve_left⟩

/-! ### An auto-paused poller (R437) -/

theorem requestFrame_length (s : State) : s.requestFrame.length = 6 := encodeFrame_length_short (Nat.le_of_ble_eq_true rfl)

theorem dutyFrame_length (s : State) (v : Int) : (s.dutyFrame v).length = 10 :=
  encodeFrame_length_short (p := dutyPayload s.params v) (Nat.le_of_ble_eq_true rfl)

theorem currentZeroFrame_length (s : State) : s.currentZeroFrame.length = 10 :=
  encodeFrame_length_short (p := currentZeroPayload s.params) (Nat.le_of_ble_eq_true rfl)

/-- The frames of the sequencer are longer than the request (R155 to R157). -/
theorem write_ne_request {f : List Byte} (hf : f.length = 10) (s : State) (o' o : IoOutcome) :
    WireRecord.write f o' ≠ .write s.requestFrame o := by
  intro heq
  obtain ⟨rfl, -⟩ := WireRecord.write.inj heq
  rw [requestFrame_length] at hf
  exact nomatch hf

theorem State.SeqRecord.ne_request {s : State} {r : WireRecord} (h : s.SeqRecord r) (o : IoOutcome) :
    r ≠ .write s.requestFrame o := by
  cases h with
  | flush => nofun
  | current => exact write_ne_request (currentZeroFrame_length s) s _ o
  | zero | up | down => exact write_ne_request (dutyFrame_length s _) s _ o

section
variable {s : State}

theorem cmdUsesChannel_session (hlock : s.seq.state ≠ .idle) : s.cmdUsesChannel = false := by
  unfold State.cmdUsesChannel
  split
  · rfl
  · split
    · exact commandUsesChannel_session hlock _
    · rfl

theorem pollUsesChannel_paused (hpaused : s.poll.state = .paused) : s.pollUsesChannel = false := by
  simp [State.pollUsesChannel, hpaused]

/-- In a session with the poller paused only `SEQ` uses the channel. -/
theorem runMove_wire_paused (hlock : s.seq.state ≠ .idle) (hpaused : s.poll.state = .paused) {m : Move} {t : State}
    (hm : runMove m s = .next t) (hreset : m ≠ .hostReset) :
    t.wire = s.wire ∨ ∃ r, s.SeqRecord r ∧ t.wire = s.wire ++ [r] := by
  rcases runMove_cases hm hreset with ⟨-, hm⟩ | ⟨-, -, rfl⟩ | ⟨-, hm⟩ | ⟨-, hm⟩ | ⟨-, -, rfl⟩ | ⟨-, rfl⟩ | ⟨-, rfl⟩
    | ⟨w, -, rfl⟩ | ⟨b, -, -, rfl⟩ | ⟨c, rfl⟩
  case inl =>
    have hrecord := records_cmdMove hm
    rw [cmdUsesChannel_session hlock] at hrecord
    exact .inl hrecord.1
  case inr.inr.inl =>
    have hrecord := records_pollMove hm
    rw [pollUsesChannel_paused hpaused] at hrecord
    exact .inl hrecord.1
  case inr.inr.inr.inl => exact seqMove_wire hm
  all_goals exact .inl rfl

end

/-- Settles O50: the pause is owed in a session and to a paused poller, so that only `SEQ` writes, and not the request. -/
theorem noRequestWhileAutoPaused : Obligations.NoRequestWhileAutoPaused := by
  intro s t hinv hauto hstep o hwire
  obtain ⟨-, -, -, hpause, -⟩ := hinv.session
  obtain ⟨hlock, hpaused⟩ := hpause hauto
  rw [← begin_seq s] at hlock
  rw [← begin_poll s] at hpaused
  have hframe : s.requestFrame = s.begin.requestFrame := by rw [State.requestFrame, State.requestFrame, begin_crc]
  rw [← begin_wire s, hframe] at hwire
  unfold step at hstep
  by_cases hreset : s.nextTurn.move = .hostReset
  · rw [hreset] at hstep
    cases hstep
    exact nomatch List.append_ne_nil_of_right_ne_nil _ (List.cons_ne_nil _ _) hwire.symm
  · rcases runMove_wire_paused hlock hpaused hstep hreset with hnone | ⟨r, hr, hone⟩
    · simp [hnone] at hwire
    · exact hr.ne_request o (List.singleton_inj.1 (List.append_cancel_left (hone.symm.trans hwire)))

end Sys2Proof.Machine
end

section
/-! PROOF. The housekeeping commands and the status word (45_status.md): what STAT_READ reads, where each field of
`STATUS` stands, and the words that no row of the opcode table has. -/

namespace Sys2Proof.Machine

/-! ### STAT_READ (R480) -/

theorem exec_statRead_value {s : State} {i : Nat} {v : Word} (h : s.statVal i = some v) :
    exec (.statRead i) s = .next (s.emitOut (.result v)).retire := by
  rw [exec, execStatRead, h]

theorem exec_statRead_refused {s : State} {i : Nat} (h : s.statVal i = none) :
    exec (.statRead i) s = .next (s.raise (.illegalCmd s.cmdWord)).retire := by
  rw [exec, execStatRead, h]

theorem statVal_none_of_le (s : State) {i : Nat} (h : 18 ≤ i) : s.statVal i = none := by
  obtain ⟨k, rfl⟩ := Nat.exists_eq_add_of_le' h
  rfl

/-- Settles O51: the listed pairs are `STATVAL`'s values up to 17, and no index above has one. -/
theorem statReadEmitsTheIndexedValue : Obligations.StatReadEmitsTheIndexedValue := by
  refine fun s => ⟨fun i v hmem => exec_statRead_value ?_,
    fun i h => exec_statRead_refused (statVal_none_of_le s h)⟩
  refine (show ∀ p ∈ _, s.statVal p.1 = some p.2 from ?_) (i, v) hmem
  simp only [List.forall_mem_cons]
  exact ⟨rfl, rfl, rfl, rfl, rfl, rfl, rfl, rfl, rfl, rfl, rfl, rfl, rfl, rfl, rfl, rfl, rfl, rfl, nofun⟩

/-! ### The status word (R481) -/

/-- A field of the high part stands in the concatenation above the low part. -/
theorem field_above {a b o n : Nat} {hi : BitVec a} {lo : BitVec b} {f : BitVec n}
    (h : hi.extractLsb' o n = f) : (hi ++ lo).extractLsb' (o + b) n = f := by
  rw [BitVec.extractLsb'_append_eq_of_le (Nat.le_add_left b o), Nat.add_sub_cancel, h]

/-- A 1-bit field is the bit at its place. -/
theorem bit_of_field {w i : Nat} {x : BitVec w} {b : Bool} (h : x.extractLsb' i 1 = bit b) : x.getLsbD i = b := by
  simpa [bit] using congrArg (·.getLsbD 0) h

theorem ctrlMode_code_eq_bit (m : CtrlMode) : m.code = bit (m == .current) := by cases m <;> rfl

theorem pollPhase_code_eq_bit (p : PollPhase) : p.code = bit (p == .resp) := by cases p <;> rfl

section
variable (s : State)

theorem statusLow_fields :
    s.statusLow.extractLsb' 0 3 = s.seq.state.code
    ∧ s.statusLow.extractLsb' 3 2 = s.poll.state.code
    ∧ s.statusLow.extractLsb' 5 2 = s.gate.state.code
    ∧ s.statusLow.extractLsb' 7 1 = bit s.crc.tblReady :=
  ⟨BitVec.extractLsb'_append_eq_right,
    field_above BitVec.extractLsb'_append_eq_right,
    field_above (field_above BitVec.extractLsb'_append_eq_right),
    field_above (field_above BitVec.extractLsb'_append_eq_left)⟩

theorem statusMid_fields :
    s.statusMid.extractLsb' 0 1 = bit s.seq.cancel
    ∧ s.statusMid.extractLsb' 1 1 = s.seq.ctrlMode.code
    ∧ s.statusMid.extractLsb' 2 1 = bit s.seq.autoPaused
    ∧ s.statusMid.extractLsb' 3 1 = bit s.poll.tempActive
    ∧ s.statusMid.extractLsb' 4 1 = s.poll.phase.code
    ∧ s.statusMid.extractLsb' 5 3 = s.seq.sessionKind.code :=
  ⟨BitVec.extractLsb'_append_eq_right,
    field_above BitVec.extractLsb'_append_eq_right,
    field_above (field_above BitVec.extractLsb'_append_eq_right),
    field_above (field_above (field_above BitVec.extractLsb'_append_eq_right)),
    field_above (field_above (field_above (field_above BitVec.extractLsb'_append_eq_right))),
    field_above (field_above (field_above (field_above BitVec.extractLsb'_append_eq_left)))⟩

theorem statusHigh_fields :
    s.statusHigh.extractLsb' 0 11 = s.sticky
    ∧ s.statusHigh.extractLsb' 11 1 = bit s.seq.sessionGated
    ∧ s.statusHigh.extractLsb' 12 4 = 0 :=
  ⟨BitVec.extractLsb'_append_eq_right,
    field_above BitVec.extractLsb'_append_eq_right,
    field_above BitVec.extractLsb'_append_eq_left⟩

variable {s} {o n : Nat} {f : BitVec n}

theorem status_of_low (hf : s.statusLow.extractLsb' o n = f) (h : o + n ≤ 8) : s.status.extractLsb' o n = f :=
  (BitVec.extractLsb'_append_eq_of_add_le (h.trans (Nat.le_add_left 8 8))).trans
    ((BitVec.extractLsb'_append_eq_of_add_le h).trans hf)

theorem status_of_mid (hf : s.statusMid.extractLsb' o n = f) (h : o + 8 + n ≤ 16) :
    s.status.extractLsb' (o + 8) n = f :=
  (BitVec.extractLsb'_append_eq_of_add_le h).trans (field_above hf)

theorem status_of_high (hf : s.statusHigh.extractLsb' o n = f) : s.status.extractLsb' (o + 16) n = f :=
  field_above hf

end

/-- Settles O52: each field stands in one of the three parts of the word, and its code is the number the spec gives. -/
theorem statusWordLayout : Obligations.StatusWordLayout := by
  intro s
  obtain ⟨hseq, hpoll, hgate, hready⟩ := statusLow_fields s
  obtain ⟨hcancel, hmode, hauto, htemp, hphase, hkind⟩ := statusMid_fields s
  obtain ⟨hsticky, hgated, hzero⟩ := statusHigh_fields s
  rw [ctrlMode_code_eq_bit] at hmode
  rw [pollPhase_code_eq_bit] at hphase
  exact ⟨status_of_low hseq (by decide),
    status_of_low hpoll (by decide),
    status_of_low hgate (by decide),
    bit_of_field (status_of_low hready (by decide)),
    bit_of_field (status_of_mid hcancel (by decide)),
    bit_of_field (status_of_mid hmode (by decide)),
    bit_of_field (status_of_mid hauto (by decide)),
    bit_of_field (status_of_mid htemp (by decide)),
    bit_of_field (status_of_mid hphase (by decide)),
    status_of_mid hkind (by decide),
    status_of_high hsticky,
    bit_of_field (status_of_high hgated),
    status_of_high hzero⟩

/-! ### A reserved opcode (R484) -/

theorem cmdMove_reserved {s : State} {w : Word} {ws : List Word} (hport : s.cmdPort = w :: ws)
    (hres : reservedOpcode (opField w).toNat) : s.cmdMove = execReserved w s := by
  have hdec := (reservedOpcodesAreExactlyTheListedOnes w).1 hres
  simp only [State.cmdMove, hport, hdec]

/-- Settles O6: the word decodes to no command, so the step raises the event and retires. -/
theorem reservedWordRaisesIllegalCmd : Obligations.ReservedWordRaisesIllegalCmd := by
  intro s w ws d ts hport hsched hres
  have htail : s.cmdPort.tail = ws := congrArg List.tail hport
  rw [step_scheduled hsched, ← htail]
  exact cmdMove_reserved (s := { s with schedule := ts, draw := d }) hport hres

end Sys2Proof.Machine
end

section
/-! PROOF. No step halts the block (60_exceptions.md R501, R502): a step is a move of one agent, and a move is a command's
step (`cmdMove_next`), a hold or step of another agent, or the arbiter's choice among these. -/

namespace Sys2Proof.Machine

theorem orHold_next (s : State) (m : Option State) : ∃ t, orHold s m = .next t := ⟨m.getD s, rfl⟩

/-- Whichever agent the arbiter grants the channel, or none (20_memory.md R112), a next state comes of it. -/
theorem arbiterMove_next (s : State) : ∃ t, s.arbiterMove = .next t := by
  unfold State.arbiterMove
  split
  · exact orHold_next s s.seqMove
  · split
    · exact cmdMove_next s
    · split
      · exact orHold_next s s.pollMove
      · exact ⟨s, rfl⟩

/-- Every move of every agent, of the host and of the channel answers a next state. -/
theorem runMove_next (m : Move) (s : State) : ∃ t, runMove m s = .next t := by
  cases m with
  | cmd => exact cmdMove_next s
  | arbiter => exact arbiterMove_next s
  | gen | poll | seq | gateRelease | hostPush => exact orHold_next s _
  | clk | hostPresent | hostEstop | hostReset | chanReceive | chanTransmit => exact ⟨_, rfl⟩

/-- Settles O7: a step is the next turn's move, and no move faults or is refused. -/
theorem noStepHalts : Obligations.NoStepHalts :=
  fun s => runMove_next s.nextTurn.move s.begin

end Sys2Proof.Machine
end

section
/-! PROOF. Fair runs (70_reset_and_hazards.md R571, R572) and the end of a session (43_duty_sequencer.md R377). First what one
move can do to each thing that a hold waits for; then a fair run, in which the table, the session lock, the delays, the poller,
and last the command port are served one after another, each by the agents already known to be served. -/

namespace Sys2Proof.Machine

/-! ### The end of a session (R377) -/

/-- Every `SEQ` step leaves fewer steps to come (R377). -/
theorem State.Inv.seqStepsLeft_lt {s t : State} (h : s.Inv) (hm : s.seqMove = some t) :
    t.seqStepsLeft < s.seqStepsLeft := by
  obtain ⟨hv, -, -, -, hd, -, hr, hst, -⟩ := h
  exact seqMove_seqStepsLeft hv hd hr hst hm

/-- With the table ready and its wait over a session has a step. -/
theorem waitedOut_seqMove {s : State} (d : ChanDraw) (h : s.Inv) (ht : s.crc.tblReady = true) (hs : s.seq.state ≠ .idle) :
    ∃ t, (s.waitedOut d).seqMove = some t ∧ t.Inv ∧ t.crc.tblReady = true ∧ t.seqStepsLeft < s.seqStepsLeft := by
  have hw : (s.waitedOut d).Inv := h
  obtain ⟨t, hm⟩ := Option.isSome_iff_exists.1
    (seqMove_enabled (s := s.waitedOut d) (lockFree_session (s := s) hs) ht rfl)
  exact ⟨t, hm, inv_seqMove hm hw, (kept_seqMove hm).tblReady.trans ht, hw.seqStepsLeft_lt hm⟩

/-- A session has at most R377's number of steps left. -/
theorem seqStepsLeft_le_sessionBound {s : State} (hr : s.RampInv) (hs : s.seq.state ≠ .idle) :
    s.seqStepsLeft ≤ s.sessionBound := by
  obtain ⟨hup, hdown, -⟩ := hr
  unfold State.seqStepsLeft State.sessionBound State.stopSteps
  cases hst : s.seq.state with
  | idle => exact absurd hst hs
  | rampingUp =>
    have := hup hst
    dsimp only
    omega
  | holding =>
    dsimp only
    omega
  | rampingDown =>
    have := hdown hst
    dsimp only
    omega
  | stopping => cases s.seq.stopPhase <;> dsimp only <;> omega

/-- As many steps as a session has left end it, whatever the channel answers. -/
theorem seqRun_reaches_idle {s : State} {ds : List ChanDraw} (h : s.Inv) (ht : s.crc.tblReady = true)
    (hlen : s.seqStepsLeft ≤ ds.length) : ∃ k, k ≤ ds.length ∧ (seqRun (ds.take k) s).seq.state = .idle := by
  induction ds generalizing s with
  | nil =>
    refine ⟨0, Nat.le_refl 0, Decidable.byContradiction fun hs => ?_⟩
    obtain ⟨t, -, -, -, hless⟩ := waitedOut_seqMove s.draw h ht hs
    exact absurd (Nat.lt_of_lt_of_le hless hlen) (Nat.not_lt_zero _)
  | cons d ds ih =>
    by_cases hs : s.seq.state = .idle
    · exact ⟨0, Nat.zero_le _, hs⟩
    · obtain ⟨t, hm, hinv, hready, hless⟩ := waitedOut_seqMove d h ht hs
      obtain ⟨k, hk, hidle⟩ := ih hinv hready (Nat.le_of_lt_succ (Nat.lt_of_lt_of_le hless hlen))
      exact ⟨k + 1, Nat.succ_le_succ hk, by rwa [List.take_succ_cons, seqRun_cons _ hm]⟩

/-! ### What makes an agent hold (R572) -/

theorem genMove_isSome (s : State) :
    s.genMove.isSome = decide (s.params.tableImpl = .generator ∧ s.crc.tblReady = false) := by
  unfold State.genMove
  split <;> simp_all

theorem gateReleaseMove_isSome (s : State) :
    s.gateReleaseMove.isSome = decide (s.gate.state = .cooldown ∧ elapsed s.gate.wait) := by
  unfold State.gateReleaseMove
  split <;> simp_all

/-- Whether an agent's step is enabled is decided by its own registers and `TBL_READY`. -/
theorem isSome_of_own_registers (s t : State) (ht : s.crc.tblReady = t.crc.tblReady) :
    (s.seq = t.seq → s.seqMove.isSome = t.seqMove.isSome)
    ∧ (s.gate = t.gate → s.gateReleaseMove.isSome = t.gateReleaseMove.isSome)
    ∧ (s.poll = t.poll → s.pollMove.isSome = t.pollMove.isSome) := by
  refine ⟨fun hs => ?_, fun hg => ?_, fun hp => ?_⟩
  · simp only [seqMove_isSome, State.seqUsesChannel, hs, ht]
  · simp only [gateReleaseMove_isSome, hg]
  · simp only [pollMove_isSome, State.pollUsesChannel, State.windowExpired, hp, ht]

/-- Nothing `CHAN` has or chooses makes an agent hold or stop holding. -/
theorem enabled_withChan (s : State) (c : Channel) (d : ChanDraw) (a : BlockAgent) :
    a.Enabled { s with chan := c, draw := d } ↔ a.Enabled s := by
  obtain ⟨hseq, hgate, hpoll⟩ := isSome_of_own_registers { s with chan := c, draw := d } s rfl
  cases a with
  | cmd =>
    refine not_congr ?_
    rw [cmdMove_eq_iff, cmdMove_eq_iff]
    rfl
  | gen => simp only [BlockAgent.Enabled, genMove_isSome]
  | poll => rw [BlockAgent.Enabled, BlockAgent.Enabled, hpoll rfl]
  | seq => rw [BlockAgent.Enabled, BlockAgent.Enabled, hseq rfl, hgate rfl]
  | clk => exact Iff.rfl

/-! ### One move -/

/-- What a move that is not a reset does: a step of one agent, an input of `HOST`, or what the channel does, a turn in which
the agent holds among them (`runMove_cases`, by name). -/
inductive MoveStep (m : Move) (s : State) : State → Prop where
  | cmd {t : State} (hm : s.cmdMove = .next t) : MoveStep m s t
  | gen (hn : s.crc.tblReady = false) : MoveStep m s { s with crc := s.crc.genStep }
  | poll {t : State} (hg : s.granted m = .poll) (hm : s.pollMove = some t) : MoveStep m s t
  | seq {t : State} (hm : s.seqMove = some t) : MoveStep m s t
  | gateRelease (hcool : s.gate.state = .cooldown) : MoveStep m s { s with gate := { s.gate with state := .idle } }
  | clk (hclk : m = .clk) : MoveStep m s s.clkStep
  | estopPin (hpin : m = .hostEstop) : MoveStep m s s.setCancel
  | present (w : Word) : MoveStep m s (s.present w)
  | push (b : Byte) : MoveStep m s { s with din := s.din ++ [b] }
  | chan (c : Channel) : MoveStep m s { s with chan := c }

theorem moveStep_of_runMove {m : Move} {s t : State} (hm : runMove m s = .next t) (hreset : m ≠ .hostReset) :
    MoveStep m s t := by
  rcases runMove_cases hm hreset with ⟨-, hm⟩ | ⟨-, hn, rfl⟩ | ⟨hg, hm⟩ | ⟨-, hm⟩ | ⟨-, hcool, rfl⟩ | ⟨hclk, rfl⟩
    | ⟨hpin, rfl⟩ | ⟨w, -, rfl⟩ | ⟨b, -, -, rfl⟩ | ⟨c, rfl⟩
  · exact .cmd hm
  · exact .gen hn
  · exact .poll hg hm
  · exact .seq hm
  · exact .gateRelease hcool
  · exact .clk hclk
  · exact .estopPin hpin
  · exact .present w
  · exact .push b
  · exact .chan c

/-- A delay that a move leaves or ends; a tick counts it down. -/
def Lapses (m : Move) (w w' : Word) : Prop := w ≠ 0 → m = .clk ∨ w' = w ∨ w' = 0

/-- What a move does to the four delays (R571). -/
structure DelaysLapse (m : Move) (s t : State) : Prop where
  seqWait : Lapses m s.seq.wait t.seq.wait
  gateWait : Lapses m s.gate.wait t.gate.wait
  pollWait : Lapses m s.poll.wait t.poll.wait
  tempLeft : Lapses m s.poll.tempLeft t.poll.tempLeft

theorem Lapses.same {m : Move} {w w' : Word} (h : w' = w) : Lapses m w w' := fun _ => .inr (.inl h)

theorem Lapses.ends {m : Move} {w w' : Word} (h : w' = w ∨ w' = 0) : Lapses m w w' := fun _ => .inr h

/-- The delay is written by a step that waited for its end. -/
theorem Lapses.over {m : Move} {w w' : Word} (h : w = 0 ∨ w' = 0) : Lapses m w w' :=
  fun hw => .inr (.inr (h.resolve_left hw))

/-- No window is open over a stopped poller (R76, R78). -/
theorem tempLeft_of_stopped {s : State} (h : s.Inv) (hp : s.poll.state = .stopped) : s.poll.tempLeft = 0 := by
  obtain ⟨-, -, -, -, -, -, -, -, ⟨-, hactive, hleft, -⟩, -⟩ := h
  exact hleft (Bool.eq_false_iff.2 fun ha => hactive ha hp)

theorem pollFrame_seq {s t : State} (h : PollFrame s t) :
    t.seq.state = s.seq.state ∧ t.seq.cancel = s.seq.cancel ∧ t.seq.wait = s.seq.wait := by
  rw [h.seq]
  exact ⟨rfl, rfl, rfl⟩

section
variable {m : Move} {s t : State} (hm : runMove m s = .next t) (hreset : m ≠ .hostReset)
include hm hreset

theorem runMove_delaysLapse (h : s.Inv) : DelaysLapse m s t := by
  cases moveStep_of_runMove hm hreset with
  | cmd hm =>
    have hf := cmdFrame_cmdMove hm
    refine ⟨.ends hf.seqWait, .same hf.gateWait, .ends hf.pollWait, fun hw => .inr ?_⟩
    rcases hf.tempLeft with hsame | hzero | hp
    · exact .inl hsame
    · exact .inr hzero
    · exact absurd (tempLeft_of_stopped h hp) hw
  | poll _ hm =>
    have hf := pollFrame_pollMove hm
    obtain ⟨-, -, hwait⟩ := pollFrame_seq hf
    exact ⟨.same hwait, .same (by rw [hf.gate]), .over hf.pollWait, .ends hf.tempLeft⟩
  | seq hm =>
    have hf := seqFrame_seqMove hm
    obtain ⟨-, -, hbusy, -, hidle⟩ := h.session
    refine ⟨.over hf.seqWait, fun hw => ?_, .ends hf.pollWait, .same hf.tempLeft⟩
    rcases hf.gate with hg | ⟨hgated, -, -⟩
    · exact .inr (.inl (by rw [hg]))
    · exact absurd (hidle (by rw [hbusy.1 hgated]; nofun)) hw
  | clk hclk => exact ⟨fun _ => .inl hclk, fun _ => .inl hclk, fun _ => .inl hclk, fun _ => .inl hclk⟩
  | gen | gateRelease | estopPin | present | push | chan => exact ⟨.same rfl, .same rfl, .same rfl, .same rfl⟩

/-- The CRC unit changes by a generator step, or in `CRC_ACC` only. -/
theorem runMove_crc :
    s.crc.tblReady = false ∧ t.crc = s.crc.genStep ∨ t.crc = { s.crc with crcAcc := t.crc.crcAcc } := by
  cases moveStep_of_runMove hm hreset with
  | cmd hm => exact .inr (cmdFrame_cmdMove hm).crc
  | gen hn => exact .inl ⟨hn, rfl⟩
  | poll _ hm =>
    rw [(pollFrame_pollMove hm).crc]
    exact .inr rfl
  | seq hm =>
    rw [(seqFrame_seqMove hm).crc]
    exact .inr rfl
  | gateRelease | clk | estopPin | present | push | chan => exact .inr rfl

/-- A table once ready stays ready (10_state.md R50). -/
theorem runMove_ready (ht : s.crc.tblReady = true) : t.crc.tblReady = true := by
  rcases runMove_crc hm hreset with ⟨hn, -⟩ | hc
  · exact nomatch hn.symm.trans ht
  · rwa [hc]

/-- Only a step of `POLL` gives a poller that is due a new wait. -/
theorem runMove_pollDue (hw : s.poll.wait = 0) :
    s.granted m = .poll ∧ s.pollMove = some t ∨ t.poll.wait = 0 := by
  have hkeep : t.poll.wait = s.poll.wait ∨ t.poll.wait = 0 → t.poll.wait = 0 := fun h => h.elim (·.trans hw) id
  cases moveStep_of_runMove hm hreset with
  | cmd hm => exact .inr (hkeep (cmdFrame_cmdMove hm).pollWait)
  | poll hg hm => exact .inl ⟨hg, hm⟩
  | seq hm => exact .inr (hkeep (seqFrame_seqMove hm).pollWait)
  | clk => exact .inr (tickDown_of_zero hw)
  | gen | gateRelease | estopPin | present | push | chan => exact .inr hw

end

/-! ### One move while the session lock is held (43_duty_sequencer.md R341, R342) -/

/-- What a move other than a step of the session leaves of it: all but the wait, `AUTO_PAUSED`, and a `CANCEL` newly set;
of the gate at most the cooldown ends. -/
structure SessionStays (s t : State) : Prop where
  params : t.params = s.params
  seq : t.seq = { s.seq with wait := t.seq.wait, cancel := t.seq.cancel, autoPaused := t.seq.autoPaused }
  cancel : s.seq.cancel = true → t.seq.cancel = true
  wait : s.seq.wait = 0 → t.seq.wait = 0
  gate : t.gate.state = s.gate.state ∨ s.gate.state = .cooldown ∧ t.gate.state = .idle

theorem runMove_sessionStays {m : Move} {s t : State} (hm : runMove m s = .next t) (hreset : m ≠ .hostReset)
    (hl : s.lockFree = false) : s.seqMove = some t ∨ SessionStays s t := by
  have hparams := runMove_params hm
  cases moveStep_of_runMove hm hreset with
  | cmd hm =>
    obtain ⟨hgate, hseq, hcancel⟩ := (cmdFrame_cmdMove hm).session hl
    have hwait : t.seq.wait = s.seq.wait := by rw [hseq]
    exact .inr ⟨hparams, by rw [hwait]; exact hseq, hcancel, hwait.trans, .inl (by rw [hgate])⟩
  | poll _ hm =>
    have hf := pollFrame_pollMove hm
    obtain ⟨-, hcancel, hwait⟩ := pollFrame_seq hf
    exact .inr ⟨hparams, by rw [hwait, hcancel]; exact hf.seq, hcancel.trans, hwait.trans, .inl (by rw [hf.gate])⟩
  | seq hm => exact .inl hm
  | gateRelease hcool => exact .inr ⟨hparams, rfl, id, id, .inr ⟨hcool, rfl⟩⟩
  | clk => exact .inr ⟨hparams, rfl, id, tickDown_of_zero, .inl rfl⟩
  | estopPin => exact .inr ⟨hparams, rfl, fun _ => rfl, id, .inl rfl⟩
  | gen | present | push | chan => exact .inr ⟨hparams, rfl, id, id, .inl rfl⟩

theorem lockFree_false_iff (s : State) : s.lockFree = false ↔ s.seq.state ≠ .idle ∨ s.seq.cancel = true := by
  rw [Bool.eq_false_iff, Ne, lockFree_iff, Decidable.not_and_iff_not_or_not, Bool.not_eq_false]

/-- The lock stays held, and the steps left stay the same. -/
theorem SessionStays.held {s t : State} (h : SessionStays s t) (hl : s.lockFree = false) :
    t.lockFree = false ∧ t.seqStepsLeft = s.seqStepsLeft := by
  obtain ⟨hparams, hseq, hcancel, -, -⟩ := h
  have hstate : t.seq.state = s.seq.state := by rw [hseq]
  have hlock := (lockFree_false_iff s).1 hl
  refine ⟨(lockFree_false_iff t).2 (hlock.imp (by rw [hstate]; exact id) hcancel), ?_⟩
  have hidle : s.seq.state = .idle → s.seq.cancel = true := fun hs => hlock.resolve_left (absurd hs)
  cases hs : s.seq.state with
  | idle => simp [State.seqStepsLeft, hstate, hs, hidle hs, hcancel (hidle hs), State.stopSteps, hparams]
  | rampingUp | holding | rampingDown | stopping =>
    simp only [State.seqStepsLeft, State.stopSteps, State.targetMag, hparams]
    rw [hseq]
    simp only [hs]

/-- The steps `SEQ` still takes before the lock comes free: a cooldown's release, which may come in between, is one more. -/
def State.lockRank (s : State) : Nat := 2 * s.seqStepsLeft + if s.gate.state = .cooldown then 1 else 0

theorem lockRank_seqMove {s t : State} (h : s.Inv) (hm : s.seqMove = some t) : t.lockRank < s.lockRank := by
  have hless := h.seqStepsLeft_lt hm
  unfold State.lockRank
  split <;> split <;> omega

theorem lockRank_gateRelease {s : State} (h : s.gate.state = .cooldown) :
    State.lockRank { s with gate := { s.gate with state := .idle } } < s.lockRank := by
  have hsteps : State.seqStepsLeft { s with gate := { s.gate with state := .idle } } = s.seqStepsLeft := rfl
  simp [State.lockRank, hsteps, h]

/-- The lock is held and `SEQ` has as much left to do as `v` says. -/
def State.LockedAt (v : Nat) (s : State) : Prop := s.lockFree = false ∧ s.lockRank = v

/-- While the lock is held a move leaves the session where it was, its wait over if it was over, or takes it nearer its end. -/
theorem runMove_lockedAt {m : Move} {s t : State} {v : Nat} (hm : runMove m s = .next t) (hreset : m ≠ .hostReset)
    (h : s.Inv) (hs : s.LockedAt v) : (t.LockedAt v ∧ (s.seq.wait = 0 → t.seq.wait = 0)) ∨ t.lockRank < v := by
  obtain ⟨hl, rfl⟩ := hs
  rcases runMove_sessionStays hm hreset hl with hseq | hstays
  · exact .inr (lockRank_seqMove h hseq)
  · obtain ⟨hl', hsteps⟩ := hstays.held hl
    rcases hstays.gate with hg | ⟨hcool, hidle⟩
    · exact .inl ⟨⟨hl', by rw [State.lockRank, hsteps, hg, State.lockRank]⟩, hstays.wait⟩
    · exact .inr (by simp [State.lockRank, hsteps, hcool, hidle])

/-! ### One move and the command port (30_encoding.md R146, R147) -/

/-- What a move that retires no command leaves: the command stays at the port, and its bytes in `DIN` unless it takes them;
the lock stays free unless the pin is pulsed. -/
structure CmdStays (m : Move) (s t : State) : Prop where
  cmdIdx : t.cmdIdx = s.cmdIdx
  params : t.params = s.params
  port : s.cmdPort <+: t.cmdPort
  data : t.cmdData = s.cmdData ∨ s.cmdMove = .next t ∧ s.cmdData = none ∧ t.cmdData ≠ none
  din : s.din.length ≤ t.din.length ∨ t.cmdData ≠ none
  lockFree : m ≠ .hostEstop → s.lockFree = true → t.lockFree = true

/-- A move that retires the command at the port is a step of `CMD`. -/
structure CmdRetires (s t : State) : Prop where
  move : s.cmdMove = .next t
  cmdIdx : t.cmdIdx = s.cmdIdx + 1
  port : t.cmdPort = s.cmdPort.tail
  data : t.cmdData = none

theorem runMove_cmdPort {m : Move} {s t : State} (hm : runMove m s = .next t) (hreset : m ≠ .hostReset) :
    CmdRetires s t ∨ CmdStays m s t := by
  have hparams := runMove_params hm
  cases moveStep_of_runMove hm hreset with
  | cmd hm =>
    rcases (cmdFrame_cmdMove hm).port with ⟨hidx, hport, hdata⟩ | rfl | ⟨hnone, n, -, -, rfl⟩
    · exact .inl ⟨hm, hidx, hport, hdata⟩
    · exact .inr ⟨rfl, hparams, List.prefix_rfl, .inl rfl, .inl (Nat.le_refl _), fun _ => id⟩
    · exact .inr ⟨rfl, hparams, List.prefix_rfl, .inr ⟨hm, hnone, nofun⟩, .inr nofun, fun _ => id⟩
  | poll _ hm =>
    have hf := pollFrame_pollMove hm
    obtain ⟨hstate, hcancel, -⟩ := pollFrame_seq hf
    refine .inr ⟨hf.cmdIdx, hparams, hf.cmdPort ▸ List.prefix_rfl, .inl hf.cmdData, .inl (by rw [hf.din]), ?_⟩
    rw [lockFree_iff, lockFree_iff, hstate, hcancel]
    exact fun _ => id
  | seq hm =>
    have hf := seqFrame_seqMove hm
    refine .inr ⟨hf.cmdIdx, hparams, hf.cmdPort ▸ List.prefix_rfl, .inl hf.cmdData, .inl (by rw [hf.din]), ?_⟩
    exact fun _ hl => nomatch ((lockFree_false_iff s).2 hf.busy).symm.trans hl
  | estopPin hpin =>
    exact .inr ⟨rfl, hparams, List.prefix_rfl, .inl rfl, .inl (Nat.le_refl _), fun hne => absurd hpin hne⟩
  | present w =>
    exact .inr ⟨rfl, hparams, List.prefix_append _ _, .inl rfl, .inl (Nat.le_refl _), fun _ => id⟩
  | push b => exact .inr ⟨rfl, hparams, List.prefix_rfl, .inl rfl, .inl (by simp), fun _ => id⟩
  | gen | gateRelease | clk | chan =>
    exact .inr ⟨rfl, hparams, List.prefix_rfl, .inl rfl, .inl (Nat.le_refl _), fun _ => id⟩

/-- No move of another agent makes a command await bytes again. -/
theorem CmdStays.awaits {m : Move} {s t : State} (h : CmdStays m s t) (hport : s.cmdPort ≠ []) (ha : t.AwaitsDin) :
    s.AwaitsDin := by
  obtain ⟨hnone, w, ws, i, n, hw, hdec, hn, hdepth, hshort⟩ := ha
  have hdata : s.cmdData = none := h.data.elim (·.symm.trans hnone) fun h => h.2.1
  have hdin := h.din.resolve_right (absurd hnone)
  obtain ⟨v, vs, hv⟩ := List.exists_cons_of_ne_nil hport
  have hhead : v = w := by
    obtain ⟨rest, hrest⟩ := h.port
    rw [hv, hw] at hrest
    exact (List.cons.inj hrest).1
  exact ⟨hdata, w, vs, i, n, hhead ▸ hv, hdec, hn, h.params ▸ hdepth, by omega⟩

/-- The room left in `DIN` (10_state.md R56). -/
def State.dinRoom (s : State) : Nat := s.params.dinDepth - s.din.length

/-- A command that awaits bytes stays at the port and loses none of them. -/
theorem runMove_awaits {m : Move} {s t : State} (hm : runMove m s = .next t) (hreset : m ≠ .hostReset)
    (ha : s.AwaitsDin) : t.dinRoom ≤ s.dinRoom ∨ ¬ t.AwaitsDin := by
  rcases runMove_cmdPort hm hreset with hr | hs
  · have hts : s = t := Host.Outcome.next.inj ((cmdMove_awaits ha).symm.trans hr.move)
    exact .inl (by rw [hts])
  · rcases hs.din with hdin | hdata
    · rw [State.dinRoom, hs.params]
      exact .inl (Nat.sub_le_sub_left hdin _)
    · exact .inr fun ha' => hdata ha'.1

/-- A push finds room while a command awaits bytes, and takes some of it. -/
theorem hostPush_awaits {b : Byte} {s t : State} (hm : runMove (.hostPush b) s = .next t) (ha : s.AwaitsDin) :
    t.dinRoom < s.dinRoom := by
  obtain ⟨-, w, ws, i, n, -, -, -, hdepth, hshort⟩ := ha
  have hroom : s.din.length < s.params.dinDepth := Nat.lt_of_lt_of_le hshort hdepth
  have hpush : s.pushDin b = some { s with din := s.din ++ [b] } := if_pos hroom
  rw [runMove, hpush] at hm
  cases hm
  simp only [State.dinRoom, Option.getD_some, List.length_append, List.length_singleton]
  omega

/-- The word at place `j` of the port still has to take bytes from `DIN`. -/
def State.TakesBytesAt (j : Nat) (s : State) : Prop :=
  (j = 0 → s.cmdData = none) ∧ ∃ w i n, s.cmdPort[j]? = some w ∧ decode w = .instr i ∧ dinCount i = some n ∧ 0 < n
    ∧ n ≤ s.params.dinDepth

theorem takesBytesAt_of_willTakeBytes {s : State} (h : s.WillTakeBytes) : ∃ j, s.TakesBytesAt j := by
  obtain ⟨w, hw, i, n, hi⟩ := h
  cases hd : s.cmdData with
  | none =>
    simp only [hd, Option.isSome_none, Bool.false_eq_true, if_false] at hw
    obtain ⟨j, hj⟩ := List.mem_iff_getElem?.1 hw
    exact ⟨j, fun _ => hd, w, i, n, hj, hi⟩
  | some p =>
    simp only [hd, Option.isSome_some, if_true] at hw
    obtain ⟨j, hj⟩ := List.mem_iff_getElem?.1 hw
    exact ⟨j + 1, nofun, w, i, n, by rwa [List.getElem?_tail] at hj, hi⟩

/-- A command at the head of the port that takes bytes does so or holds, once `DIN` is full. -/
theorem cmdMove_takes_din {s t : State} (h : s.TakesBytesAt 0) (hfull : s.params.dinDepth ≤ s.din.length)
    (hm : s.cmdMove = .next t) : t = s ∨ t.din.length < s.din.length := by
  obtain ⟨hnone, w, i, n, hw, hdec, hn, hpos, hdepth⟩ := h
  obtain ⟨ws, hport⟩ : ∃ ws, s.cmdPort = w :: ws := by
    cases hp : s.cmdPort with
    | nil => simp [hp] at hw
    | cons v ws =>
      rw [hp] at hw
      cases hw
      exact ⟨ws, rfl⟩
  have hexec : exec i s = .next t := by
    unfold State.cmdMove at hm
    rw [hport] at hm
    dsimp only at hm
    rwa [hdec] at hm
  exact exec_takes_din hn (hnone rfl) hpos hdepth (hdepth.trans hfull) hexec

/-- While `DIN` stays full, a command that takes bytes keeps its place in the port, or moves up as the head retires. -/
theorem runMove_takesBytesAt {m : Move} {s t : State} {j : Nat} (hm : runMove m s = .next t) (hreset : m ≠ .hostReset)
    (hfull : s.din.length = s.params.dinDepth) (hfull' : t.din.length = t.params.dinDepth) (h : s.TakesBytesAt j) :
    (∃ i, i < j ∧ t.TakesBytesAt i) ∨ (t.TakesBytesAt j ∧ t.cmdIdx = s.cmdIdx) := by
  have hparams := runMove_params hm
  have hholds : j = 0 → s.cmdMove = .next t → t = s := by
    rintro rfl hc
    refine (cmdMove_takes_din h (Nat.le_of_eq hfull.symm) hc).resolve_right ?_
    rw [hfull, hfull', hparams]
    exact Nat.lt_irrefl _
  obtain ⟨hnone, w, i, n, hw, hdec, hn, hpos, hdepth⟩ := h
  rcases runMove_cmdPort hm hreset with hr | hs
  · cases j with
    | zero =>
      have hts := congrArg State.cmdIdx (hholds rfl hr.move)
      rw [hr.cmdIdx] at hts
      exact absurd hts (Nat.succ_ne_self _)
    | succ j =>
      exact .inl ⟨j, Nat.lt_succ_self j, fun _ => hr.data, w, i, n, by rw [hr.port, List.getElem?_tail, hw], hdec, hn, hpos,
        hparams ▸ hdepth⟩
  · refine .inr ⟨⟨fun hj => ?_, w, i, n, ?_, hdec, hn, hpos, hparams ▸ hdepth⟩, hs.cmdIdx⟩
    · rcases hs.data with hd | ⟨hc, -, -⟩
      · exact hd.trans (hnone hj)
      · exact hholds hj hc ▸ hnone hj
    · obtain ⟨rest, hrest⟩ := hs.port
      obtain ⟨hlt, -⟩ := List.getElem?_eq_some_iff.1 hw
      rw [← hrest, List.getElem?_append_left hlt, hw]

/-! ### One step of the generator (40_crc.md R201) -/

/-- The generator steps still to come: the table takes 2048. -/
def CrcUnit.genLeft (c : CrcUnit) : Nat := 2048 - (8 * c.genI.toNat + c.genJ.toNat)

/-- A generator step leaves fewer to come, or none. -/
theorem genStep_genLeft {c : CrcUnit} (h : c.Inv) (hn : c.tblReady = false) :
    c.genStep.tblReady = true ∨ c.genStep.genLeft < c.genLeft := by
  have hat : c.GenAt (8 * c.genI.toNat + c.genJ.toNat) := ⟨h, hn, rfl⟩
  obtain ⟨-, -, hgen⟩ := h
  obtain ⟨hi, hj, -⟩ := hgen hn
  by_cases hlast : 8 * c.genI.toNat + c.genJ.toNat < 2047
  · obtain ⟨-, -, hcount⟩ := hat.genStep hlast
    right
    unfold CrcUnit.genLeft
    omega
  · have hk : 8 * c.genI.toNat + c.genJ.toNat = 2047 := by omega
    exact .inl (genStep_of_genAt_2047 (hk ▸ hat)).1

/-! ### Fair runs -/

/-- A fair run without a reset, from a state with the invariant. -/
structure FairRun (turns : Nat → Turn) (r : Nat → State) : Prop where
  isRun : IsRun turns r
  fair : WeaklyFair turns r
  start : (r 0).Inv
  noReset : ∀ n, (turns n).move ≠ .hostReset

/-- What holds at `n` and goes on until a goal is reached holds later, if the goal is not reached. -/
theorem stays_or_reaches {r : Nat → State} {Stay Goal : State → Prop} {n m : Nat} (h0 : Stay (r n))
    (hs : ∀ k, n ≤ k → Stay (r k) → Stay (r (k + 1)) ∨ Goal (r (k + 1))) (hnm : n ≤ m) :
    Stay (r m) ∨ ∃ k, n ≤ k ∧ Goal (r k) := by
  induction m, hnm using Nat.le_induction with
  | base => exact .inl h0
  | succ m hm ih =>
    rcases ih with hstay | hgoal
    · exact (hs m hm hstay).imp_right fun hg => ⟨m + 1, Nat.le_succ_of_le hm, hg⟩
    · exact .inr hgoal

/-- What every step from `n` on keeps holds from then on. -/
theorem stays_forever {r : Nat → State} {Stay : State → Prop} {n m : Nat} (h0 : Stay (r n))
    (hs : ∀ k, n ≤ k → Stay (r k) → Stay (r (k + 1))) (hnm : n ≤ m) : Stay (r m) :=
  (stays_or_reaches (Goal := fun _ => False) h0 (fun k hk h => .inl (hs k hk h)) hnm).resolve_right
    fun ⟨_, _, hf⟩ => hf

namespace FairRun

variable {turns : Nat → Turn} {r : Nat → State} (hr : FairRun turns r)
include hr

theorem inv (n : Nat) : (r n).Inv := by
  induction n with
  | zero => exact hr.start
  | succ n ih => exact inv_runMove (hr.isRun.move n) (s := (r n).inTurn (turns n)) ih

theorem ready_of_le {n k : Nat} (hn : (r n).crc.tblReady = true) (hk : n ≤ k) : (r k).crc.tblReady = true :=
  stays_forever (Stay := fun s => s.crc.tblReady = true) hn (fun j _ h => runMove_ready (hr.isRun.move j) (hr.noReset j) h) hk

/-- The table becomes ready: while it is not, each step of `GEN` leaves fewer to come. -/
theorem recurs_ready : Recurs r fun s => s.crc.tblReady = true := by
  apply recurs_of_rank fun s => s.crc.genLeft
  intro n hn
  have hn := Bool.eq_false_iff.2 hn
  refine leadsTo hr.fair .gen (fun s => s.crc.tblReady = false ∧ s.crc.genLeft = (r n).crc.genLeft)
    (fun s => s.crc.tblReady = true ∨ s.crc.genLeft < (r n).crc.genLeft) ⟨hn, rfl⟩ ?_ ?_ ?_
  · rintro k - ⟨hk, hleft⟩
    rcases runMove_crc (hr.isRun.move k) (hr.noReset k) with ⟨-, hc⟩ | hc
    · rw [hc, ← hleft]
      obtain ⟨-, hinv, -⟩ := hr.inv k
      exact .inr (genStep_genLeft hinv hk)
    · rw [hc]
      exact .inl ⟨hk, hleft⟩
  · rintro k - ⟨hk, -⟩
    obtain ⟨-, -, hrom, -⟩ := hr.inv k
    rw [BlockAgent.Enabled, genMove_isSome, decide_eq_true_iff]
    refine ⟨?_, hk⟩
    cases hi : (r k).params.tableImpl with
    | rom => exact nomatch hk.symm.trans (hrom hi)
    | generator => rfl
  · rintro k - ⟨hk, hleft⟩ htake
    obtain ⟨-, hstep⟩ := hr.isRun.steps htake
    rw [hstep, ← hleft]
    obtain ⟨-, hinv, -⟩ := hr.inv k
    exact genStep_genLeft hinv hk

/-- What recurs does so with the table ready. -/
theorem recurs_and_ready {P : State → Prop} (h : Recurs r P) : Recurs r fun s => s.crc.tblReady = true ∧ P s := by
  intro n
  obtain ⟨m, hm, hready⟩ := hr.recurs_ready n
  obtain ⟨k, hk, hp⟩ := h m
  exact ⟨k, hm.trans hk, hr.ready_of_le hready hk, hp⟩

/-! The delays (R571). -/

theorem delaysLapse (n : Nat) : DelaysLapse (turns n).move ((r n).inTurn (turns n)) (r (n + 1)) :=
  runMove_delaysLapse (hr.isRun.move n) (hr.noReset n) (hr.inv n)

theorem recurs_seqWait : Recurs r fun s => s.seq.wait = 0 :=
  recurs_elapsed hr.isRun hr.fair (fun s => s.seq.wait) (fun _ _ => rfl) (fun _ => rfl) fun n => (hr.delaysLapse n).seqWait

theorem recurs_gateWait : Recurs r fun s => s.gate.wait = 0 :=
  recurs_elapsed hr.isRun hr.fair (fun s => s.gate.wait) (fun _ _ => rfl) (fun _ => rfl) fun n => (hr.delaysLapse n).gateWait

theorem recurs_pollWait : Recurs r fun s => s.poll.wait = 0 :=
  recurs_elapsed hr.isRun hr.fair (fun s => s.poll.wait) (fun _ _ => rfl) (fun _ => rfl) fun n => (hr.delaysLapse n).pollWait

theorem recurs_tempLeft : Recurs r fun s => s.poll.tempLeft = 0 :=
  recurs_elapsed hr.isRun hr.fair (fun s => s.poll.tempLeft) (fun _ _ => rfl) (fun _ => rfl) fun n =>
    (hr.delaysLapse n).tempLeft

/-! The session lock (43_duty_sequencer.md R341, R377). -/

theorem lockedAt_step {v : Nat} (k : Nat) (h : (r k).LockedAt v) :
    ((r (k + 1)).LockedAt v ∧ ((r k).seq.wait = 0 → (r (k + 1)).seq.wait = 0)) ∨ (r (k + 1)).lockRank < v :=
  runMove_lockedAt (s := (r k).inTurn (turns k)) (hr.isRun.move k) (hr.noReset k) (hr.inv k) h

/-- The lock comes free: once the table is ready and the present delay over, `SEQ` has a step, of the session or of the
cooldown's release, and each takes it nearer its end. -/
theorem recurs_lockFree : Recurs r fun s => s.lockFree = true := by
  apply recurs_of_rank State.lockRank
  intro n hn
  generalize hv : (r n).lockRank = v
  have hstart : (r n).LockedAt v := ⟨Bool.eq_false_iff.2 hn, hv⟩
  suffices h : ∃ k, n ≤ k ∧ (r k).lockRank < v from h.imp fun k hk => hk.imp_right .inr
  obtain ⟨m, hm, hready, hwait⟩ := hr.recurs_and_ready hr.recurs_seqWait n
  rcases stays_or_reaches (Goal := fun s => s.lockRank < v) hstart
    (fun k _ h => (hr.lockedAt_step k h).imp_left And.left) hm with hlocked | hgoal
  · refine (leadsTo hr.fair .seq (fun s => s.LockedAt v ∧ s.seq.wait = 0) (fun s => s.lockRank < v)
      ⟨hlocked, hwait⟩ ?_ ?_ ?_).imp fun k hk => hk.imp_left hm.trans
    · rintro k - ⟨hl, hw⟩
      exact (hr.lockedAt_step k hl).imp_left fun h => ⟨h.1, h.2 hw⟩
    · rintro k hk ⟨⟨hl, -⟩, hw⟩
      exact .inl (seqMove_enabled hl (hr.ready_of_le hready hk) hw)
    · rintro k - ⟨⟨-, hrank⟩, -⟩ htake
      rw [← hrank]
      rcases hr.isRun.steps htake with hseq | ⟨hcool, hstep⟩
      · exact lockRank_seqMove (s := (r k).inTurn (turns k)) (hr.inv k) hseq
      · rw [hstep]
        exact lockRank_gateRelease (s := (r k).inTurn (turns k)) hcool
  · exact hgoal

/-! The poller (44_poller.md R435, R436, R438). -/

/-- A poller that stays running takes a step: until it does, it stays due once its wait is over. -/
theorem poll_takes {n : Nat} (hrun : ∀ k, n ≤ k → (r k).poll.state = .running) :
    ∃ k, n ≤ k ∧ BlockAgent.Takes (r k) (turns k).move .poll := by
  by_contra hno
  obtain ⟨m, hm, hready, hwait⟩ := hr.recurs_and_ready hr.recurs_pollWait n
  have hdue : ∀ k, m ≤ k → (r k).poll.wait = 0 := fun k hk =>
    stays_forever (Stay := fun s => s.poll.wait = 0) hwait (fun j hj hw => by
      refine (runMove_pollDue (hr.isRun.move j) (hr.noReset j) hw).resolve_left fun hstep => hno ⟨j, hm.trans hj, ?_⟩
      exact (takes_inTurn .poll (turns j) (r j) _).1 ⟨hstep.1, Option.isSome_of_eq_some hstep.2⟩) hk
  obtain ⟨k, hk, htake⟩ := hr.fair .poll m fun k hk => by
    simp [BlockAgent.Enabled, pollMove_isSome, State.pollUsesChannel, hrun k (hm.trans hk), hdue k hk, elapsed,
      hr.ready_of_le hready hk]
  exact hno ⟨k, hm.trans hk, htake⟩

/-! The command port (30_encoding.md R146, R147). -/

/-- The bytes a command names come: each push while it awaits them is one more. -/
theorem recurs_notAwaitsDin (hsup : HostSupplies turns r) : Recurs r fun s => ¬ s.AwaitsDin := by
  apply recurs_of_rank State.dinRoom
  intro n hn
  have hawaits := not_not.1 hn
  obtain ⟨m, b, hm, hpush⟩ := hsup n hawaits
  have hstep : ∀ k, n ≤ k → (r k).AwaitsDin ∧ (r k).dinRoom ≤ (r n).dinRoom →
      ((r (k + 1)).AwaitsDin ∧ (r (k + 1)).dinRoom ≤ (r n).dinRoom) ∨ ¬ (r (k + 1)).AwaitsDin := by
    rintro k - ⟨ha, hroom⟩
    by_cases ha' : (r (k + 1)).AwaitsDin
    · have hless := (runMove_awaits (hr.isRun.move k) (hr.noReset k) ha).resolve_right (not_not.2 ha')
      exact .inl ⟨ha', hless.trans hroom⟩
    · exact .inr ha'
  rcases stays_or_reaches (Stay := fun s => s.AwaitsDin ∧ s.dinRoom ≤ (r n).dinRoom) (Goal := fun s => ¬ s.AwaitsDin)
    ⟨hawaits, Nat.le_refl _⟩ hstep hm with ⟨ha, hroom⟩ | ⟨k, hk, hgoal⟩
  · have hmove := hr.isRun.move m
    rw [hpush] at hmove
    exact ⟨m + 1, Nat.le_succ_of_le hm, .inr (Nat.lt_of_lt_of_le (hostPush_awaits hmove ha) hroom)⟩
  · exact ⟨k, hk, .inl hgoal⟩

theorem cmdPort_step (k : Nat) :
    CmdRetires ((r k).inTurn (turns k)) (r (k + 1)) ∨ CmdStays (turns k).move ((r k).inTurn (turns k)) (r (k + 1)) :=
  runMove_cmdPort (hr.isRun.move k) (hr.noReset k)

theorem cmdIdx_le {n k : Nat} (hk : n ≤ k) : (r n).cmdIdx ≤ (r k).cmdIdx :=
  stays_forever (Stay := fun s => (r n).cmdIdx ≤ s.cmdIdx) (Nat.le_refl _) (fun j _ h =>
    h.trans ((hr.cmdPort_step j).elim (fun hret => hret.cmdIdx ▸ Nat.le_succ _) fun hs => Nat.le_of_eq hs.cmdIdx.symm)) hk

section
variable (hsup : HostSupplies turns r) {p : Nat} (hpin : ∀ n, p ≤ n → (turns n).move ≠ .hostEstop)

section
variable {n : Nat} (hstays : ∀ k, n ≤ k → CmdStays (turns k).move ((r k).inTurn (turns k)) (r (k + 1)))
include hsup hpin hstays

/-- A command that never retires has, from some point on, all it could hold for: the lock, once free, stays free, for only a
command that retires takes it, or the pin. -/
theorem cmd_enabled (hport : (r n).cmdPort ≠ []) : ∃ b, n ≤ b ∧ ∀ k, b ≤ k → BlockAgent.Enabled (r k) .cmd := by
  have hport' : ∀ k, n ≤ k → (r k).cmdPort ≠ [] := fun k hk =>
    stays_forever (Stay := fun s => s.cmdPort ≠ []) hport (fun j hj h => (hstays j hj).port.ne_nil h) hk
  obtain ⟨a, ha, hready, hfree⟩ := hr.recurs_and_ready hr.recurs_lockFree (max n p)
  obtain ⟨b, hb, hbytes⟩ := hr.recurs_notAwaitsDin hsup a
  refine ⟨b, by omega, fun k hk => ?_⟩
  have hfree' : (r k).lockFree = true :=
    stays_forever (Stay := fun s => s.lockFree = true) hfree
      (fun j hj h => (hstays j (by omega)).lockFree (hpin j (by omega)) h) (hb.trans hk)
  have hbytes' : ¬ (r k).AwaitsDin :=
    stays_forever (Stay := fun s => ¬ s.AwaitsDin) hbytes
      (fun j hj h ha' => h ((hstays j (by omega)).awaits (hport' j (by omega)) ha')) hk
  obtain ⟨-, -, -, -, -, -, -, -, -, hI⟩ := hr.inv k
  exact cmdMove_ne hI (hr.ready_of_le hready (hb.trans hk)) hfree' hbytes' (hport' k (by omega))

/-- The only step `CMD` could take without retiring is to take a payload. -/
theorem cmd_takes_payload (hport : (r n).cmdPort ≠ []) :
    ∃ b, n ≤ b ∧ ∀ c, b ≤ c → ∃ k, c ≤ k ∧ (r k).cmdData = none ∧ (r (k + 1)).cmdData ≠ none := by
  obtain ⟨b, hb, henabled⟩ := hr.cmd_enabled hsup hpin hstays hport
  refine ⟨b, hb, fun c hc => ?_⟩
  obtain ⟨k, hk, htake⟩ := hr.fair .cmd c fun k hk => henabled k (hc.trans hk)
  obtain ⟨hmove, hne⟩ := hr.isRun.steps htake
  rcases (cmdFrame_cmdMove hmove).port with ⟨hidx, -, -⟩ | heq | ⟨hnone, x, -, -, hx⟩
  · exact absurd (hidx.symm.trans (hstays k (by omega)).cmdIdx) (Nat.succ_ne_self _)
  · exact absurd heq hne
  · exact ⟨k, hk, hnone, by rw [hx]; nofun⟩

end

include hsup hpin

/-- Once the pin is no longer pulsed, a presented command retires: if it did not, it would take a payload, and after that
another, with the first one still there. -/
theorem cmd_retires {n : Nat} (hport : (r n).cmdPort ≠ []) : ∃ k, n ≤ k ∧ (r n).cmdIdx < (r k).cmdIdx := by
  by_contra hno
  have hstays : ∀ k, n ≤ k → CmdStays (turns k).move ((r k).inTurn (turns k)) (r (k + 1)) := by
    refine fun k hk => (hr.cmdPort_step k).resolve_left fun hret => hno ⟨k + 1, Nat.le_succ_of_le hk, ?_⟩
    rw [hret.cmdIdx]
    exact Nat.lt_succ_of_le (hr.cmdIdx_le hk)
  obtain ⟨b, hb, htakes⟩ := hr.cmd_takes_payload hsup hpin hstays hport
  obtain ⟨c, hc, -, hpayload⟩ := htakes b (Nat.le_refl b)
  obtain ⟨d, hd, hnone, -⟩ := htakes (c + 1) (Nat.le_succ_of_le hc)
  refine stays_forever (Stay := fun s => s.cmdData ≠ none) hpayload (fun j hj h => ?_) hd hnone
  rcases (hstays j (by omega)).data with hdata | ⟨-, -, hdata⟩
  · rw [hdata]
    exact h
  · exact hdata

/-- A full `DIN` gets room while a command that takes bytes is to come: the commands before it retire, and then it does. -/
theorem din_gets_room {n j : Nat} (h : (r n).TakesBytesAt j) :
    ∃ k, n ≤ k ∧ (r k).din.length < (r k).params.dinDepth := by
  induction j using Nat.strongRecOn generalizing n with
  | ind j ih =>
    by_contra hno
    have hfull : ∀ k, n ≤ k → (r k).din.length = (r k).params.dinDepth := by
      intro k hk
      obtain ⟨-, -, -, ⟨-, hdin⟩, -⟩ := hr.inv k
      exact Nat.le_antisymm hdin (Nat.not_lt.1 fun hlt => hno ⟨k, hk, hlt⟩)
    have hport : (r n).cmdPort ≠ [] := by
      obtain ⟨-, w, i, x, hw, -⟩ := h
      rintro hnil
      simp [hnil] at hw
    have hstep : ∀ k, n ≤ k → (r k).TakesBytesAt j ∧ (r k).cmdIdx = (r n).cmdIdx →
        ((r (k + 1)).TakesBytesAt j ∧ (r (k + 1)).cmdIdx = (r n).cmdIdx) ∨ ∃ i, i < j ∧ (r (k + 1)).TakesBytesAt i := by
      rintro k hk ⟨hplace, hidx⟩
      rcases runMove_takesBytesAt (s := (r k).inTurn (turns k)) (hr.isRun.move k) (hr.noReset k) (hfull k hk)
        (hfull (k + 1) (Nat.le_succ_of_le hk)) hplace with hup | ⟨hplace', hidx'⟩
      · exact .inr hup
      · exact .inl ⟨hplace', hidx'.trans hidx⟩
    obtain ⟨m, hm, hlt⟩ := hr.cmd_retires hsup hpin hport
    rcases stays_or_reaches (Stay := fun s => s.TakesBytesAt j ∧ s.cmdIdx = (r n).cmdIdx)
      (Goal := fun s => ∃ i, i < j ∧ s.TakesBytesAt i) ⟨h, rfl⟩ hstep hm with ⟨-, hidx⟩ | ⟨k, hk, i, hi, htakes⟩
    · exact absurd hidx (Nat.ne_of_gt hlt)
    · obtain ⟨l, hl, hroom⟩ := ih i hi htakes
      exact hno ⟨l, hk.trans hl, hroom⟩

end

end FairRun

/-- Settles O42: a session's steps are counted down; in a fair run each hold is lifted as its own lemma says; and whether an
agent's step is enabled is read off its own registers. -/
theorem sessionsEndAndEveryHoldIsLifted : Obligations.SessionsEndAndEveryHoldIsLifted := by
  refine ⟨fun s ds h ht hs hlen => ?_, fun turns r hrun hfair hstart hreset => ?_, isSome_of_own_registers,
    enabled_withChan⟩
  · rw [← hlen]
    exact seqRun_reaches_idle h ht (hlen ▸ seqStepsLeft_le_sessionBound h.ramp hs)
  · have hr : FairRun turns r := ⟨hrun, hfair, hstart, hreset⟩
    have hlock : Recurs r fun s => s.seq.state = .idle ∧ s.seq.cancel = false := fun n =>
      (hr.recurs_lockFree n).imp fun k hk => hk.imp_right (lockFree_iff (r k)).1
    refine ⟨hr.recurs_ready, hlock, hr.recurs_seqWait, hr.recurs_gateWait, hr.recurs_pollWait, hr.recurs_tempLeft,
      fun n => hr.poll_takes, fun hsup => ⟨hr.recurs_notAwaitsDin hsup, ?_⟩⟩
    rintro ⟨p, hpin⟩
    refine ⟨fun n => hr.cmd_retires hsup hpin, fun n hn => ?_⟩
    obtain ⟨j, hj⟩ := takesBytesAt_of_willTakeBytes hn
    exact hr.din_gets_room hsup hpin hj

end Sys2Proof.Machine
end
